-- ==== Sys2Proof/Word.lean ====
section
/-! DEFINITION. The units the link block moves: the byte, the 32-bit word, the callback handle
(20_memory.md R41, R47; 00_scope.md R6 CB_BITS, R9). -/

namespace Sys2Proof

/-- A byte, 8 bits (R41). -/
abbrev Byte := BitVec 8

/-- A word of the Checksum Engine, 32 bits (R9). -/
abbrev Word := BitVec 32

/-- A callback handle, `CB_BITS` = 8 bits, opaque to the block (R15, D11). -/
abbrev Handle := BitVec 8

end Sys2Proof
end

