-- ==== Sys2Proof/Config.lean ====
section
/-! DEFINITION. What is fixed when an instance of the block is created and never written by an
operation (10_state.md R19, R27). Every value is admitted: a claim about "every state" is a claim
about every configuration. -/

namespace Sys2Proof

/-- The two open parameters of an instance (00_scope.md R6, D3, D7). -/
structure Config where
  /-- `T_INACT`, the inactivity timeout in ticks. -/
  tInact : Nat
  /-- `P_STOP_STICKY`: `STOP` keeps the timer disabled until the next `LISTEN`. -/
  stopSticky : Bool
  deriving DecidableEq, Repr

/-- `T_INACT` is a positive integer (R19, R183). -/
abbrev Config.Legal (c : Config) : Prop := 1 ≤ c.tInact

/-- The values the spec names as defaults (R6): 1000 ticks, sticky.
DESIGN CHOICE, log 2: they are the configuration of `State.reset` only. -/
def Config.suggested : Config := { tInact := 1000, stopSticky := true }

end Sys2Proof
end

