-- ==== Sys2Proof/Syntax.lean ====
section
/-! DEFINITION. The operations of the block, one constructor per row of spec/opcode_table.json
(00_scope.md R4), and the reasons a command stream is refused (30_encoding.md R80). -/

namespace Sys2Proof

/-- An operation of the block with its operand. `TIMEOUT` is none: it has no encoding and cannot be
issued from outside (R81). -/
inductive Instr where
  /-- `CRC.COMPUTE bytes` (R105). -/
  | crcCompute (bytes : List Byte)
  /-- `FRAME payload` (R120). -/
  | frame (payload : List Byte)
  /-- `LISTEN cb` (R140). -/
  | listen (handle : Handle)
  /-- `STOP` (R141). -/
  | stop
  /-- `RXB b` (R142). -/
  | rxb (b : Byte)
  /-- `RXCHUNK bytes` (R152). -/
  | rxchunk (bytes : List Byte)
  /-- `TICK` (R181). -/
  | tick
  /-- `TICKS n` (R186). -/
  | ticks (n : Nat)
  deriving DecidableEq, Repr

/-- The eight rows of the opcode table, without operands. -/
inductive Op where
  | crcCompute | frame | listen | stop | rxb | rxchunk | tick | ticks
  deriving DecidableEq, Repr

/-- The four operand formats of the command stream (R79). -/
inductive Format where
  /-- `[opsel]` -/
  | n
  /-- `[opsel][v]` -/
  | b
  /-- `[opsel][n_lo][n_hi]` -/
  | w
  /-- `[opsel][n_lo][n_hi][d_0]...[d_(n-1)]` -/
  | s
  deriving DecidableEq, Repr

/-- The row of the opcode table an operation belongs to. -/
def Instr.op : Instr → Op
  | .crcCompute _ => .crcCompute
  | .frame _ => .frame
  | .listen _ => .listen
  | .stop => .stop
  | .rxb _ => .rxb
  | .rxchunk _ => .rxchunk
  | .tick => .tick
  | .ticks _ => .ticks

/-- Why the decoder of the command stream refuses (R80, D19). -/
inductive DecodeError where
  /-- The stream is empty: there is no operation to decode (log 5). -/
  | endOfStream
  /-- The selector byte is 0x00 or 0x09 to 0xFF. -/
  | reservedSelector (opsel : Byte)
  /-- The stream ends before the operand of this operation is complete. -/
  | truncatedOperand (op : Op)
  deriving DecidableEq, Repr

end Sys2Proof
end

