-- ==== Sys2Proof/WellFormed.lean ====
section
/-! DEFINITION. Which operations the command stream can spell: a count has 16 bits
(30_encoding.md R79, 43_timer.md R186). The operations themselves accept any length (R79, D20). -/

namespace Sys2Proof

/-- One more than the largest 16-bit count (R79). -/
def countBound : Nat := 65536

/-- The command stream can spell this operation: its count, if its format has one, fits 16 bits. -/
def Instr.wellFormed : Instr → Bool
  | .crcCompute bytes => decide (bytes.length < countBound)
  | .frame payload => decide (payload.length < countBound)
  | .listen _ => true
  | .stop => true
  | .rxb _ => true
  | .rxchunk bytes => decide (bytes.length < countBound)
  | .tick => true
  | .ticks n => decide (n < countBound)

end Sys2Proof
end

