-- ==== Sys2Proof/Decode.lean ====
section
/-! DEFINITION. The command stream: its decoder, total on any bytes, and its encoder
(30_encoding.md R79, R80). The encoding is the spec's own (D1); it carries no behaviour of the block. -/

namespace Sys2Proof

/-- The selector byte of each row of the opcode table (R79). -/
def Op.selector : Op → Byte
  | .crcCompute => 0x01
  | .frame => 0x02
  | .listen => 0x03
  | .stop => 0x04
  | .rxb => 0x05
  | .rxchunk => 0x06
  | .tick => 0x07
  | .ticks => 0x08

/-- The format of each row of the opcode table (R79). -/
def Op.format : Op → Format
  | .crcCompute => .s
  | .frame => .s
  | .listen => .b
  | .stop => .n
  | .rxb => .b
  | .rxchunk => .s
  | .tick => .n
  | .ticks => .w

/-- The rows of the opcode table, in its order. -/
def Op.all : List Op := [.crcCompute, .frame, .listen, .stop, .rxb, .rxchunk, .tick, .ticks]

/-- The row a selector byte picks; `none` for a reserved selector (R79, R80). -/
def Op.ofSelector? (sel : Byte) : Option Op := Op.all.find? fun op => op.selector == sel

/-! ### Reading operands -/

/-- The operand byte of format B. -/
def takeByte : List Byte → Option (Byte × List Byte)
  | v :: rest => some (v, rest)
  | [] => none

/-- The 16-bit count of formats W and S: `n = n_lo + 256 * n_hi` (R79). -/
def takeCount : List Byte → Option (Nat × List Byte)
  | lo :: hi :: rest => some (lo.toNat + 256 * hi.toNat, rest)
  | _ => none

/-- Exactly `n` bytes and what follows them. -/
def takeExactly : Nat → List Byte → Option (List Byte × List Byte)
  | 0, bs => some ([], bs)
  | n + 1, b :: bs => (takeExactly n bs).map fun (data, rest) => (b :: data, rest)
  | _ + 1, [] => none

/-- The counted data of format S. -/
def takeData (bs : List Byte) : Option (List Byte × List Byte) :=
  (takeCount bs).bind fun (n, rest) => takeExactly n rest

/-- The operation of row `op` with the operand the bytes after its selector spell, and what follows it. -/
def decodeOperand : Op → List Byte → Option (Instr × List Byte)
  | .crcCompute, bs => (takeData bs).map fun (data, rest) => (.crcCompute data, rest)
  | .frame, bs => (takeData bs).map fun (data, rest) => (.frame data, rest)
  | .listen, bs => (takeByte bs).map fun (v, rest) => (.listen v, rest)
  | .stop, bs => some (.stop, bs)
  | .rxb, bs => (takeByte bs).map fun (v, rest) => (.rxb v, rest)
  | .rxchunk, bs => (takeData bs).map fun (data, rest) => (.rxchunk data, rest)
  | .tick, bs => some (.tick, bs)
  | .ticks, bs => (takeCount bs).map fun (n, rest) => (.ticks n, rest)

/-- Decodes the first operation of a command stream and answers it with the rest of the stream; a
reserved selector or an incomplete operand is refused (R79, R80). -/
def decode : List Byte → Except DecodeError (Instr × List Byte)
  | [] => .error .endOfStream
  | sel :: rest =>
    match Op.ofSelector? sel with
    | none => .error (.reservedSelector sel)
    | some op =>
      match decodeOperand op rest with
      | none => .error (.truncatedOperand op)
      | some found => .ok found

/-! ### Writing operations -/

/-- The two bytes of a 16-bit count, low byte first (R79). -/
def countBytes (n : Nat) : List Byte := [BitVec.ofNat 8 n, BitVec.ofNat 8 (n / 256)]

/-- The operand bytes of an operation (R79). -/
def Instr.operandBytes : Instr → List Byte
  | .crcCompute bytes => countBytes bytes.length ++ bytes
  | .frame payload => countBytes payload.length ++ payload
  | .listen handle => [handle]
  | .stop => []
  | .rxb b => [b]
  | .rxchunk bytes => countBytes bytes.length ++ bytes
  | .tick => []
  | .ticks n => countBytes n

/-- The bytes that spell a well-formed operation: its selector, then its operand (R79). -/
def encode (i : Instr) : List Byte := i.op.selector :: i.operandBytes

/-- A program: the concatenation of its operations' strings (R79). -/
def encodeProgram (ops : List Instr) : List Byte := ops.flatMap encode

/-! ### Words numbered as the opcode table numbers them -/

/-- How many bytes the operation that begins with these bytes has, bytes not given read as zero
(R79, column `length_bytes` of the opcode table); 1 for a reserved selector. -/
def spelledLength (bs : List Byte) : Nat :=
  match (Op.ofSelector? (bs.getD 0 0)).map Op.format with
  | none => 1
  | some .n => 1
  | some .b => 2
  | some .w => 3
  | some .s => 3 + ((bs.getD 1 0).toNat + 256 * (bs.getD 2 0).toNat)

/-- The bytes of a table word of `nbits` bits, bit 0 the least significant bit of the first byte, then
zero bytes until the operation the word begins is complete (log 19). -/
def tableBytes (nbits w : Nat) : List Byte :=
  let given := (List.range ((nbits + 7) / 8)).map fun k => BitVec.ofNat 8 (w >>> (8 * k))
  given ++ List.replicate (spelledLength given - given.length) 0

/-- The operation the decoder reads from a table word (log 19). -/
def decodeTableWord (nbits w : Nat) : Option Instr :=
  match decode (tableBytes nbits w) with
  | .ok (i, _) => some i
  | .error _ => none

end Sys2Proof
end

