-- ==== Sys2Proof/Machine/State.lean ====
section
/-! DEFINITION. The architectural state of one instance of the link block (10_state.md), the output
events (30_encoding.md R83), the reasons a step stops, and reset (R23, R260). -/

namespace Sys2Proof.Machine

/-- `rx_state`, the Receiver State (R10). -/
inductive RxState where
  /-- Waiting for a length byte. -/
  | listening
  /-- Accumulating bytes until the declared length is reached. -/
  | assembling
  deriving DecidableEq, Repr

/-- The result `FRAME` returns to its caller (R83). -/
inductive FrameResult where
  | ok
  | invalidArgument
  deriving DecidableEq, Repr

/-- An output event of the block (R83). -/
inductive Event where
  /-- `TX`: the Framer hands one whole packet to the transport's `send`. -/
  | tx (packet : List Byte)
  /-- `DELIVER`: the Receiver hands one payload to the callback with this handle. -/
  | deliver (handle : Handle) (payload : List Byte)
  /-- `RET(CRC, value)`. -/
  | retCrc (value : Word)
  /-- `RET(FRAME, OK)` or `RET(FRAME, InvalidArgument)`. -/
  | retFrame (result : FrameResult)
  deriving DecidableEq, Repr

/-- The four conditions of the error taxonomy (R220). None of them stops the machine. -/
inductive Condition where
  | invalidArgument
  | noiseDrop
  | crcDrop
  | timeout
  deriving DecidableEq, Repr

/-- The reasons the block stops with a fault: there are none, "the block never faults" (R226). Nothing
raises one, so the type has no constructor (safe, log 24). -/
inductive Fault where
  deriving DecidableEq, Repr

/-- The reasons a step is refused. -/
inductive Refusal where
  /-- Raised by an arm of `exec` for an operation that has no meaning yet; no arm raises it now (safe). -/
  | notModelled (mnemonic : String)
  /-- Raised by `step` when the command stream does not begin with an operation: a reserved selector, an
  operand that is not complete, or the end of the stream (R80, D19; safe, logs 5 and 29). -/
  | notAnOperation (why : DecodeError)
  /-- Raised by `LISTEN`, `STOP`, `RXB`, `RXCHUNK`, `TICK` and `TICKS` in a state outside the invariants
  of R22, which no run from reset reaches and to which the spec gives no meaning (R145, D22, U8;
  safe, log 6). -/
  | outsideInvariants
  deriving DecidableEq, Repr

/-- One instance of the block: the eight elements of the summary table of 10_state.md, the instance's
configuration, and the model's own command stream and observation. -/
structure State where
  /-- `rx_state` (R10). -/
  rxState : RxState
  /-- `rx_buf`, the Receiver Buffer (R11). -/
  rxBuf : List Byte
  /-- `rx_expected`, the declared total length of the candidate packet (R12). -/
  rxExpected : Byte
  /-- `cb`, the handle of the installed callback (R15). -/
  cb : Handle
  /-- `cb_valid`: a callback has been installed (R15). -/
  cbValid : Bool
  /-- `tmr_en`: a byte may start the inactivity timer (R16). -/
  tmrEn : Bool
  /-- `tmr_run`: the inactivity timer is counting (R17). -/
  tmrRun : Bool
  /-- `tmr_cnt`: ticks left before the timer expires (R18). -/
  tmrCnt : Nat
  /-- `T_INACT` and `P_STOP_STICKY`, fixed at creation (R19, log 2). -/
  cfg : Config
  /-- The command stream not yet decoded, the model's own (R79, log 1). -/
  stream : List Byte
  /-- The output events emitted so far, oldest first: the observation, kept by the model (R27, log 3). -/
  trace : List Event
  deriving DecidableEq, Repr

/-- A new instance with configuration `c` (R23, R260), nothing placed in its stream. Of these values
only `rx_state = LISTENING` is RF's; the others are the spec's own choice (D9, log 4). -/
def State.resetWith (c : Config) : State :=
  { rxState := .listening
    rxBuf := []
    rxExpected := 0
    cb := 0
    cbValid := false
    tmrEn := true
    tmrRun := false
    tmrCnt := 0
    cfg := c
    stream := []
    trace := [] }

/-- The machine right after reset, with the configuration the spec names as default (log 2). -/
def State.reset : State := State.resetWith Config.suggested

end Sys2Proof.Machine
end

