-- ==== Sys2Proof/Machine/Flags.lean ====
section
/-! DEFINITION. The status and control bits of the block: who sets and clears `cb_valid`, `tmr_en`,
`tmr_run` and the count that goes with them (10_state.md R15 to R18), and the codes of the conditions
and of the receiver state. -/

namespace Sys2Proof.Machine

/-- Installs a callback: `LISTEN` is the only writer, and nothing clears `cb_valid` (R15). -/
def State.installCallback (handle : Handle) (s : State) : State :=
  { s with cb := handle, cbValid := true }

/-- A byte may start the timer again: `LISTEN` sets `tmr_en` (R16, D6). -/
def State.enableTimer (s : State) : State := { s with tmrEn := true }

/-- `STOP` clears `tmr_en` when `P_STOP_STICKY` is true and leaves it otherwise (R16, D7). -/
def State.disableTimerIfSticky (s : State) : State :=
  { s with tmrEn := bif s.cfg.stopSticky then false else s.tmrEn }

/-- The timer stops counting; its count is 0 whenever it does not run (R17, R18). -/
def State.stopTimer (s : State) : State := { s with tmrRun := false, tmrCnt := 0 }

/-- Every byte restarts the timer, where `tmr_en` allows it (R151, R184). -/
def State.restartTimer (s : State) : State :=
  { s with
    tmrRun := bif s.tmrEn then true else s.tmrRun
    tmrCnt := bif s.tmrEn then s.cfg.tInact else s.tmrCnt }

/-- The bit that stands for a receiver state: `LISTENING` = 0, `ASSEMBLING` = 1 (10_state.md section 1;
the spec's own encoding). -/
def RxState.bit : RxState → BitVec 1
  | .listening => 0
  | .assembling => 1

/-- The number of a condition in traces, the spec's own (R220, D13). -/
def Condition.code : Condition → Nat
  | .invalidArgument => 1
  | .noiseDrop => 2
  | .crcDrop => 3
  | .timeout => 4

/-- Whether a condition is reported to anyone: `InvalidArgument` alone is (R220, R221). -/
def Condition.surfaced : Condition → Bool
  | .invalidArgument => true
  | .noiseDrop => false
  | .crcDrop => false
  | .timeout => false

end Sys2Proof.Machine
end

