-- ==== Sys2Proof/Machine/Params.lean ====
section
/-! DEFINITION. The literal parameters of the block (00_scope.md R6), named once so that a correction
touches one place: RF's literals are unaudited (93_implementation_defined.md U9, log 16). -/

namespace Sys2Proof.Machine

/-- `POLY`, the generator polynomial, its x^32 term implicit (R100). -/
def poly : Word := 0x04C11DB7

/-- `INIT`, the value the checksum starts from (R100). -/
def crcInit : Word := 0xFFFFFFFF

/-- Bit steps per word of the checksum (R104). -/
def wordBits : Nat := 32

/-- `WORD_BYTES`, bytes per word of the checksum (R6). -/
def wordBytes : Nat := 4

/-- Bytes of a packet's trailer (R70). -/
def trailerBytes : Nat := 4

/-- `PAYLOAD_MIN` (R6). -/
def payloadMin : Nat := 1

/-- `PAYLOAD_MAX` (R6). -/
def payloadMax : Nat := 250

/-- `OVERHEAD`: packet bytes that are not payload (R6). -/
def overhead : Nat := 5

/-- `LEN_MIN`, the least legal length byte (R6). -/
def lenMin : Nat := 6

/-- `LEN_MAX`, the greatest legal length byte (R6). -/
def lenMax : Nat := 255

/-- `RXBUF_CAP`, the capacity of the receiver buffer in bytes (R6, R11, D16). -/
def rxBufCap : Nat := 255

end Sys2Proof.Machine
end

