-- ==== Sys2Proof/Machine/Invariants.lean ====
section
/-! DEFINITION. The invariants of 10_state.md R22, clause by clause. The rules of the receiver are
defined on the states that meet them, and a state that does not is refused (R145, D22). -/

namespace Sys2Proof.Machine

/-- R22 (a): in `LISTENING` the buffer is empty. -/
abbrev State.ListeningIsEmpty (s : State) : Prop := s.rxState = .listening → s.rxBuf = []

/-- R22 (b): in `ASSEMBLING` the buffer begins with the declared length, which is legal and not yet
reached. -/
abbrev State.AssemblingIsPartial (s : State) : Prop :=
  s.rxState = .assembling →
    1 ≤ s.rxBuf.length ∧ s.rxBuf.length < s.rxExpected.toNat ∧
      s.rxBuf.head? = some s.rxExpected ∧
      lenMin ≤ s.rxExpected.toNat ∧ s.rxExpected.toNat ≤ lenMax

/-- R22 (c): the buffer holds at most 254 bytes between operations. -/
abbrev State.BufferFits (s : State) : Prop := s.rxBuf.length + 1 ≤ rxBufCap

/-- R22 (d): a running timer counts 1 to `T_INACT`, a stopped one holds 0. -/
abbrev State.TimerInRange (s : State) : Prop :=
  (s.tmrRun = true → 1 ≤ s.tmrCnt ∧ s.tmrCnt ≤ s.cfg.tInact) ∧ (s.tmrRun = false → s.tmrCnt = 0)

/-- R22 (e): a running timer is enabled. -/
abbrev State.RunningIsEnabled (s : State) : Prop := s.tmrRun = true → s.tmrEn = true

/-- The states the spec gives a meaning to: R22 (a) to (e), and `T_INACT >= 1` (R183). -/
abbrev State.Legal (s : State) : Prop :=
  s.ListeningIsEmpty ∧ s.AssemblingIsPartial ∧ s.BufferFits ∧ s.TimerInRange ∧
    s.RunningIsEnabled ∧ s.cfg.Legal

end Sys2Proof.Machine
end

