-- ==== Sys2Proof/Machine/Operands.lean ====
section
/-! DEFINITION. How operands are assembled from bytes: words and trailers (20_memory.md R42, R43),
padding (40_crc.md R101, R102), the length byte and the slices of a packet (30_encoding.md R70 to R75). -/

namespace Sys2Proof.Machine

/-- Four bytes as a little-endian word: the byte at the lower index is the less significant (R42). -/
def le32 (b0 b1 b2 b3 : Byte) : Word :=
  b0.setWidth 32 ||| b1.setWidth 32 <<< 8 ||| b2.setWidth 32 <<< 16 ||| b3.setWidth 32 <<< 24

/-- `le32` of a sequence, defined for length 4 only (00_scope.md section 5). -/
def le32? : List Byte → Option Word
  | [b0, b1, b2, b3] => some (le32 b0 b1 b2 b3)
  | _ => none

/-- A word as four bytes, least significant first (R43, R73). -/
def bytesLe (w : Word) : List Byte :=
  [w.extractLsb' 0 8, w.extractLsb' 8 8, w.extractLsb' 16 8, w.extractLsb' 24 8]

/-- The half-open slice `s[i .. j)` (00_scope.md R9). -/
def slice (s : List Byte) (i j : Nat) : List Byte := (s.drop i).take (j - i)

/-- Zero bytes after the data up to a multiple of 4 (R101; memory order, C1). -/
def pad4 (s : List Byte) : List Byte :=
  s ++ List.replicate ((wordBytes - s.length % wordBytes) % wordBytes) 0

/-- The little-endian words of a sequence whose length is a multiple of 4. -/
def wordsOf : List Byte → List Word
  | b0 :: b1 :: b2 :: b3 :: rest => le32 b0 b1 b2 b3 :: wordsOf rest
  | _ => []

/-- The words the Checksum Engine consumes, in order (R74, R102). -/
def words (s : List Byte) : List Word := wordsOf (pad4 s)

/-- The length byte of a packet with this payload: payload length + 5 (R71, R75 (a), R122). -/
def lengthByte (payload : List Byte) : Byte := BitVec.ofNat 8 (payload.length + overhead)

/-- The bytes the checksum covers, framer side: the length byte, then the payload (R72, R123). -/
def framerHead (payload : List Byte) : List Byte := lengthByte payload :: payload

/-- `head = bytes[0 .. expectedLength-4)` (R146). -/
def headOf (buf : List Byte) (len : Nat) : List Byte := slice buf 0 (len - trailerBytes)

/-- `trailer = bytes[expectedLength-4 .. expectedLength)` (R146). -/
def trailerOf (buf : List Byte) (len : Nat) : List Byte := slice buf (len - trailerBytes) len

/-- The application payload `bytes[1 .. expectedLength-4)` (R148, R75 (c)). -/
def payloadOf (buf : List Byte) (len : Nat) : List Byte := slice buf 1 (len - trailerBytes)

end Sys2Proof.Machine
end

