-- ==== Sys2Proof/Machine/Ops.lean ====
section
/-! DEFINITION. The named operations over the state that every meaning is built from: output events,
the writes of the receiver buffer, taking one of the four conditions, and the guard of R22. -/

namespace Sys2Proof.Machine

/-- `emit E`: appends an output event to the trace (00_scope.md R9, R52). -/
def State.emit (e : Event) (s : State) : State := { s with trace := s.trace ++ [e] }

/-- `rx_buf <- []`, `rx_state <- LISTENING`: every write of `LISTENING` is paired with a clear
(R149, R182, R22). -/
def State.returnToListening (s : State) : State := { s with rxBuf := [], rxState := .listening }

/-- A legal length byte is recorded and buffered, and assembly begins (R144). -/
def State.beginPacket (b : Byte) (s : State) : State :=
  { s with rxExpected := b, rxBuf := [b], rxState := .assembling }

/-- `rx_buf <- rx_buf ++ [b]` (R145). -/
def State.appendByte (b : Byte) (s : State) : State := { s with rxBuf := s.rxBuf ++ [b] }

/-- `DELIVER`: the payload goes to the registered callback; with none registered it is discarded
(R148, R154). -/
def State.deliver (payload : List Byte) (s : State) : State :=
  if s.cbValid then s.emit (.deliver s.cb payload) else s

/-- Taking one of the four conditions, the block's whole exception mechanism (60_exceptions.md). None
saves state, changes a mode or transfers control (R230), and there is no return operation: the block is
at once ready for the next operation (R231). -/
def State.take : Condition → State → State
  /- `raise InvalidArgument`: reported to the caller of `FRAME`, no state changes (R221). -/
  | .invalidArgument, s => s.emit (.retFrame .invalidArgument)
  /- The byte is consumed, nothing changes (R143, R222). -/
  | .noiseDrop, s => s
  /- The candidate is discarded in silence (R150, R223). -/
  | .crcDrop, s => s.returnToListening
  /- `TIMEOUT`: one-shot, silent (R182, R224, R185). -/
  | .timeout, s => s.stopTimer.returnToListening

/-- The command stream after the fetched operation. -/
def State.withStream (bs : List Byte) (s : State) : State := { s with stream := bs }

/-- An operation of the receiver or of its timer has its effect in the states of R22; a state outside
them is refused (R145, D22, U8, log 6). -/
def onLegal (s : State) (effect : State → State) : Host.Outcome State Fault Refusal :=
  if s.Legal then .next (effect s) else .refused .outsideInvariants

end Sys2Proof.Machine
end

