-- ==== Sys2Proof/Machine/Checksum.lean ====
section
/-! DEFINITION. The Checksum Engine and `CRC.COMPUTE` (40_crc.md). -/

namespace Sys2Proof.Machine

/-- One bit step: the top bit is tested before the shift and is shifted out (R103). -/
def crcBit (c : Word) : Word := if c.msb then (c <<< 1) ^^^ poly else c <<< 1

/-- `k w`, with `w` evaluated first (lemma `strictly_eq`): it keeps the terms of a long checksum small
when the kernel evaluates one, and says nothing about the hardware. -/
def strictly {α : Type} (w : Word) (k : Word → α) : α :=
  match w.toNat with
  | 0 => k 0#32
  | m + 1 => k (BitVec.ofNat 32 (m + 1))

/-- `repeat n times: c <- crc_bit(c)` (R104). -/
def crcBits : Nat → Word → Word
  | 0, c => c
  | n + 1, c => strictly (crcBit c) (crcBits n)

/-- One word step: the whole word is exclusive-ored in, then 32 bit steps follow (R104). -/
def crcWord (c w : Word) : Word := crcBits wordBits (c ^^^ w)

/-- The words of the input, in order, from accumulator `c` (R105). -/
def crcWords : List Word → Word → Word
  | [], c => c
  | w :: ws, c => strictly (crcWord c w) (crcWords ws)

/-- The checksum of a byte sequence: no final xor, no reflection (R105, R106). -/
def crcCompute (bytes : List Byte) : Word := crcWords (words bytes) crcInit

/-- `CRC.COMPUTE bytes`: emits the checksum; reads and writes no state (R105, R108). -/
def State.crcCompute (bytes : List Byte) (s : State) : State :=
  s.emit (.retCrc (Machine.crcCompute bytes))

/-- The meaning of `CRC.COMPUTE` (R105). -/
def execCrcCompute (bytes : List Byte) (s : State) : Host.Outcome State Fault Refusal :=
  .next (s.crcCompute bytes)

end Sys2Proof.Machine
end

