-- ==== Sys2Proof/Machine/Framer.lean ====
section
/-! DEFINITION. The Packet Framer and `FRAME` (41_framer.md). -/

namespace Sys2Proof.Machine

/-- The packet of a payload: head, then the checksum of the head least significant byte first
(R70, R123 to R125, R127). -/
def packet (payload : List Byte) : List Byte :=
  framerHead payload ++ bytesLe (crcCompute (framerHead payload))

/-- The size check of `FRAME` (R121, R78). -/
abbrev PayloadLegal (payload : List Byte) : Prop :=
  payloadMin ≤ payload.length ∧ payload.length ≤ payloadMax

/-- `FRAME payload`: one `TX` of the whole packet and `RET(FRAME, OK)`, or `InvalidArgument` and nothing
else; reads and writes no state of the receiver (R120, R20). -/
def State.frame (payload : List Byte) (s : State) : State :=
  if PayloadLegal payload then (s.emit (.tx (packet payload))).emit (.retFrame .ok)
  else s.take .invalidArgument

/-- The meaning of `FRAME` (R120). -/
def execFrame (payload : List Byte) (s : State) : Host.Outcome State Fault Refusal :=
  .next (s.frame payload)

end Sys2Proof.Machine
end

