-- ==== Sys2Proof/Machine/Receiver.lean ====
section
/-! DEFINITION. The Packet Receiver: `LISTEN`, `STOP`, `RXB`, `RXCHUNK` (42_receiver.md). -/

namespace Sys2Proof.Machine

/-- `LISTEN cb`: installs the callback and resets the receiver to `Listening` with an empty buffer
(R140; `rx_expected` and the timer by D15 and D6, log 13). -/
def State.listen (handle : Handle) (s : State) : State :=
  let t := (s.installCallback handle).returnToListening
  { t with rxExpected := 0 }.enableTimer.stopTimer

/-- `STOP`: stops the inactivity timer only; buffer, state and callback stay (R141). -/
def State.stop (s : State) : State := s.stopTimer.disableTimerIfSticky

/-- `crc_compute(head) = le32(trailer)` on a complete buffer (R147). -/
def checksumMatches (buf : List Byte) (len : Nat) : Bool :=
  le32? (trailerOf buf len) == some (crcCompute (headOf buf len))

/-- The candidate packet is complete: a match delivers the payload, a mismatch is dropped in silence, and
either way the buffer is cleared and the state is `Listening` (R146 to R150). -/
def State.complete (s : State) : State :=
  if checksumMatches s.rxBuf s.rxExpected.toNat then
    (s.deliver (payloadOf s.rxBuf s.rxExpected.toNat)).returnToListening
  else s.take .crcDrop

/-- What a byte does before the timer is restarted (R142 to R150). -/
def State.acceptByte (b : Byte) (s : State) : State :=
  match s.rxState with
  | .listening => if b.toNat < lenMin then s.take .noiseDrop else s.beginPacket b
  | .assembling =>
    let t := s.appendByte b
    if t.rxBuf.length = t.rxExpected.toNat then t.complete else t

/-- `RXB b`: one byte arrives; every byte restarts the timer (R142, R151). -/
def State.rxByte (b : Byte) (s : State) : State := (s.acceptByte b).restartTimer

/-- `RXCHUNK bytes`: the bytes one after another; the empty chunk does nothing (R152). -/
def State.rxChunk : List Byte → State → State
  | [], s => s
  | b :: bs, s => State.rxChunk bs (s.rxByte b)

/-- The meaning of `LISTEN` (R140). -/
def execListen (handle : Handle) (s : State) : Host.Outcome State Fault Refusal :=
  onLegal s (State.listen handle)

/-- The meaning of `STOP` (R141). -/
def execStop (s : State) : Host.Outcome State Fault Refusal :=
  onLegal s State.stop

/-- The meaning of `RXB` (R142). -/
def execRxb (b : Byte) (s : State) : Host.Outcome State Fault Refusal :=
  onLegal s (State.rxByte b)

/-- The meaning of `RXCHUNK` (R152). -/
def execRxchunk (bytes : List Byte) (s : State) : Host.Outcome State Fault Refusal :=
  onLegal s (State.rxChunk bytes)

end Sys2Proof.Machine
end

