-- ==== Sys2Proof/Machine/Timer.lean ====
section
/-! DEFINITION. The inactivity timer: `TICK`, `TICKS` and the internal `TIMEOUT` (43_timer.md). -/

namespace Sys2Proof.Machine

/-- `TICK`: a running timer counts down by one and expires at 0 (R181, R182). -/
def State.tick (s : State) : State :=
  if s.tmrRun then
    let t := { s with tmrCnt := s.tmrCnt - 1 }
    if t.tmrCnt = 0 then t.take .timeout else t
  else s

/-- `TICKS n`: `n` consecutive `TICK`s (R186). A `TICK` of a stopped timer does nothing (R17), so once the
timer has stopped the remaining ones are passed over (lemma `ticks_eq_iterate`). -/
def State.ticks : Nat → State → State
  | 0, s => s
  | n + 1, s => if s.tmrRun then State.ticks n s.tick else s

/-- The meaning of `TICK` (R181). -/
def execTick (s : State) : Host.Outcome State Fault Refusal :=
  onLegal s State.tick

/-- The meaning of `TICKS` (R186). -/
def execTicks (n : Nat) (s : State) : Host.Outcome State Fault Refusal :=
  onLegal s (State.ticks n)

end Sys2Proof.Machine
end

