-- ==== Sys2Proof/Machine/Dispatch.lean ====
section
/-! DEFINITION. One arm per operation of the opcode table. -/

namespace Sys2Proof.Machine

def exec (i : Instr) (s : State) : Host.Outcome State Fault Refusal :=
  match i with
  | .crcCompute bytes => Sys2Proof.Machine.execCrcCompute bytes s
  | .frame payload => Sys2Proof.Machine.execFrame payload s
  | .listen handle => Sys2Proof.Machine.execListen handle s
  | .stop => Sys2Proof.Machine.execStop s
  | .rxb b => Sys2Proof.Machine.execRxb b s
  | .rxchunk bytes => Sys2Proof.Machine.execRxchunk bytes s
  | .tick => Sys2Proof.Machine.execTick s
  | .ticks n => Sys2Proof.Machine.execTicks n s

end Sys2Proof.Machine
end

