-- ==== Sys2Proof/Machine/Step.lean ====
section
/-! DEFINITION. One step: the first operation of the command stream is decoded and runs to completion
before the next is decoded (30_encoding.md R79). -/

namespace Sys2Proof.Machine

/-- Decodes the first operation of the stream and runs it with the stream moved past it; what is no
operation is refused, with no state change and no output (R79, R80). -/
def step (s : State) : Host.Outcome State Fault Refusal :=
  match decode s.stream with
  | .error why => .refused (.notAnOperation why)
  | .ok (i, rest) => exec i (s.withStream rest)

/-- `s` with the operation of a table word placed where `step` decodes its next operation: the command
stream holds it and nothing else (logs 1 and 19). -/
def State.withFetchWord (s : State) (nbits w : Nat) : State := s.withStream (tableBytes nbits w)

end Sys2Proof.Machine
end

