-- ==== Sys2Proof/Machine/ByteSerial.lean ====
section
/-! DEFINITION. The byte-serial procedure 40_crc.md R110 compares the checksum with: bytes enter at the
top of the accumulator, one at a time. No operation uses it; R111 wants the checksum defined by R101 to
R105. -/

namespace Sys2Proof.Machine

/-- `rev4`: the order of the bytes reversed inside each group of four (R110). -/
def rev4 : List Byte → List Byte
  | b0 :: b1 :: b2 :: b3 :: rest => b3 :: b2 :: b1 :: b0 :: rev4 rest
  | _ => []

/-- One byte of the byte-serial procedure: into the top byte, then 8 bit steps (R110). -/
def serialByte (c : Word) (b : Byte) : Word := crcBits 8 (c ^^^ b.setWidth 32 <<< 24)

/-- The byte-serial procedure over a byte sequence (R110). -/
def crcByteSerial (bytes : List Byte) : Word := bytes.foldl serialByte crcInit

end Sys2Proof.Machine
end

