-- ==== Sys2Proof/Machine/CommandLayer.lean ====
section
/-! DEFINITION. The host's command layer, outside the block (50_host_command_layer.md R200 to R206): the
one defined command payload, and the `FRAME` operations a drain of the Command Queue issues. It is no part
of State and no step reads it; a program of operations is what it hands to the block (log 21). -/

namespace Sys2Proof.Machine

/-- The fields of a `SetDateTimeCommand` (R201). -/
structure DateTime where
  year : Nat
  month : Nat
  day : Nat
  dayOfWeek : Nat
  hour : Nat
  minute : Nat
  second : Nat
  deriving DecidableEq, Repr

/-- The ranges of R201: years 2000 to 2255, Monday = 1 to Sunday = 7. -/
abbrev DateTime.InRange (d : DateTime) : Prop :=
  2000 ≤ d.year ∧ d.year ≤ 2255 ∧ 1 ≤ d.month ∧ d.month ≤ 12 ∧ 1 ≤ d.day ∧ d.day ≤ 31 ∧
    1 ≤ d.dayOfWeek ∧ d.dayOfWeek ≤ 7 ∧ d.hour ≤ 23 ∧ d.minute ≤ 59 ∧ d.second ≤ 59

/-- The 11 payload bytes of a `SetDateTimeCommand`: the command code 0x0001 and the zero "timeshift",
both little-endian, then the fields (R201). -/
def DateTime.payload (d : DateTime) : List Byte :=
  [0x01, 0x00, 0x00, 0x00,
    BitVec.ofNat 8 (d.year - 2000), BitVec.ofNat 8 d.month, BitVec.ofNat 8 d.day,
    BitVec.ofNat 8 d.dayOfWeek, BitVec.ofNat 8 d.hour, BitVec.ofNat 8 d.minute,
    BitVec.ofNat 8 d.second]

/-- A command as the Processor handles it: the bytes of its header, which RF does not define (R204), the
result of `generatePayload()`, and the commands that building it enqueues (R200, R202, R203). -/
inductive Command where
  | mk (header payload : List Byte) (enqueues : List Command)

/-- What the Processor hands to the Framer: header bytes, then the payload (R203). -/
def Command.bytes : Command → List Byte
  | .mk header payload _ => header ++ payload

/-- The `FRAME` a command becomes (R203). -/
def Command.toFrame (c : Command) : Instr := .frame c.bytes

/-- The commands that processing this one appends to the queue (R202). -/
def Command.enqueues : Command → List Command
  | .mk _ _ cs => cs

/-- The `FRAME`s a drain of the queue issues: the head is processed, what it enqueues is appended, until
the queue is empty (R202, R203). Only drains in which every `FRAME` succeeds are described, which is `sent`
(R204): whether a drain goes on or stops after one fails is open (N17), and there is no `Drain` of such a
queue either way. DESIGN CHOICE, log 21. -/
inductive Drain : List Command → List Instr → Prop where
  | done : Drain [] []
  | next (c : Command) (queue : List Command) (ops : List Instr) (sent : PayloadLegal c.bytes)
      (h : Drain (queue ++ c.enqueues) ops) : Drain (c :: queue) (c.toFrame :: ops)

end Sys2Proof.Machine
end

