-- ==== Sys2Proof/Machine/Conditions.lean ====
section
/-! DEFINITION. Which of the four conditions an operation raises, in order (60_exceptions.md R220): an
observation for claims and traces. No state and no output depends on it, and the block itself keeps no
count of the silent ones (R225, R238, D14, log 17). -/

namespace Sys2Proof.Machine

/-- The conditions one received byte raises (R222, R223). -/
def State.byteConditions (b : Byte) (s : State) : List Condition :=
  match s.rxState with
  | .listening => if b.toNat < lenMin then [.noiseDrop] else []
  | .assembling =>
    let buf := s.rxBuf ++ [b]
    if buf.length = s.rxExpected.toNat ∧ checksumMatches buf s.rxExpected.toNat = false then [.crcDrop]
    else []

/-- The conditions the bytes of a chunk raise, one byte after another. -/
def State.chunkConditions : List Byte → State → List Condition
  | [], _ => []
  | b :: bs, s => s.byteConditions b ++ State.chunkConditions bs (s.rxByte b)

/-- The condition one tick raises (R224). -/
def State.tickConditions (s : State) : List Condition :=
  if s.tmrRun = true ∧ s.tmrCnt = 1 then [.timeout] else []

/-- The conditions `n` ticks raise. -/
def State.ticksConditions : Nat → State → List Condition
  | 0, _ => []
  | n + 1, s => if s.tmrRun then s.tickConditions ++ State.ticksConditions n s.tick else []

/-- The conditions an operation raises in a state (R220, column "raised by"; R226). -/
def conditionsOf : Instr → State → List Condition
  | .crcCompute _, _ => []
  | .frame payload, _ => if PayloadLegal payload then [] else [.invalidArgument]
  | .listen _, _ => []
  | .stop, _ => []
  | .rxb b, s => s.byteConditions b
  | .rxchunk bytes, s => s.chunkConditions bytes
  | .tick, s => s.tickConditions
  | .ticks n, s => s.ticksConditions n

end Sys2Proof.Machine
end

