-- ==== Sys2Proof/Machine/Instances.lean ====
section
/-! DEFINITION. Several instances of the block: a list of States, each operation addressed to one of
them (10_state.md R26, D25, log 18). -/

namespace Sys2Proof.Machine

/-- Runs an operation on instance `k` of a system; the other instances are neither read nor written
(R26). -/
def execAt (sys : List State) (k : Fin sys.length) (i : Instr) :
    Host.Outcome (List State) Fault Refusal :=
  match exec i sys[k] with
  | .next t => .next (sys.set k t)
  | .fault r => .fault r
  | .refused r => .refused r

end Sys2Proof.Machine
end

