-- ==== Sys2Proof/Machine/Untimed.lean ====
section
/-! DEFINITION. The untimed reading of the block (43_timer.md R189, 30_encoding.md R81): no ticks, and
`TIMEOUT` an input the environment may raise whenever the timer runs. It has more runs than the timed
machine. -/

namespace Sys2Proof.Machine

/-- An input of the untimed machine. -/
inductive UntimedInput where
  /-- An operation other than `TICK` and `TICKS`. -/
  | op (i : Instr)
  /-- The timer expires. -/
  | timeout
  deriving DecidableEq, Repr

/-- The state without its tick count. -/
def State.forgetCount (s : State) : State := { s with tmrCnt := 0 }

/-- One input of the untimed machine; `none` where the input is not offered: `TICK` and `TICKS` never,
`TIMEOUT` while the timer does not run (R189). -/
def untimedStep : UntimedInput → State → Option State
  | .op (.crcCompute bytes), s => some (s.crcCompute bytes)
  | .op (.frame payload), s => some (s.frame payload)
  | .op (.listen handle), s => some (s.listen handle)
  | .op .stop, s => some s.stop
  | .op (.rxb b), s => some (s.rxByte b).forgetCount
  | .op (.rxchunk bytes), s => some (s.rxChunk bytes).forgetCount
  | .op .tick, _ => none
  | .op (.ticks _), _ => none
  | .timeout, s => if s.tmrRun then some (s.take .timeout) else none

/-- Inputs of the untimed machine one after another. -/
def untimedRun : List UntimedInput → State → Option State
  | [], s => some s
  | u :: us, s => (untimedStep u s).bind (untimedRun us)

end Sys2Proof.Machine
end

