-- ==== Sys2Proof/Safety.lean ====
section
/-! DEFINITION. What claims speak of beside single steps: runs of operations, reachability, the parts of
a trace that belong to one path, and the duties of a host (70_reset_and_hazards.md). -/

namespace Sys2Proof

/-- The operations that hand bytes to the receiver. -/
def Instr.feedsBytes : Instr → Bool
  | .rxb _ => true
  | .rxchunk bytes => !bytes.isEmpty
  | .crcCompute _ => false
  | .frame _ => false
  | .listen _ => false
  | .stop => false
  | .tick => false
  | .ticks _ => false

/-- The operations of the receive path: those that read or write the receiver or its timer (R20). -/
def Instr.isReceivePath : Instr → Bool
  | .crcCompute _ => false
  | .frame _ => false
  | .listen _ => true
  | .stop => true
  | .rxb _ => true
  | .rxchunk _ => true
  | .tick => true
  | .ticks _ => true

/-- Whether the host may feed bytes after an operation: a `LISTEN` allows it, a `STOP` ends it
(R262, R263). -/
def Instr.armsAfter (armed : Bool) : Instr → Bool
  | .listen _ => true
  | .stop => false
  | .crcCompute _ => armed
  | .frame _ => armed
  | .rxb _ => armed
  | .rxchunk _ => armed
  | .tick => armed
  | .ticks _ => armed

end Sys2Proof

namespace Sys2Proof.Machine

/-- Runs operations one after another, stopping at the first that does not answer a next state (R52). -/
def runOps : List Instr → State → Host.Outcome State Fault Refusal
  | [], s => .next s
  | i :: is, s =>
    match exec i s with
    | .next t => runOps is t
    | .fault r => .fault r
    | .refused r => .refused r

/-- The states a legally configured instance reaches from reset by operations (R22). -/
inductive Reachable : State → Prop where
  | reset (c : Config) (h : c.Legal) : Reachable (State.resetWith c)
  | exec (i : Instr) (s t : State) (hs : Reachable s) (h : exec i s = .next t) : Reachable t

/-- The position of the receiver: its state and the number of bytes it holds (R21, R155). -/
def State.position (s : State) : RxState × Nat := (s.rxState, s.rxBuf.length)

/-- Whether an event comes from the receive path (`DELIVER`); the others come from the send path or from
the Checksum Engine (R54, R83). -/
def Event.isDelivery : Event → Bool
  | .deliver _ _ => true
  | .tx _ => false
  | .retCrc _ => false
  | .retFrame _ => false

/-- The host feeds no bytes before the first `LISTEN`, and none between a `STOP` and the next `LISTEN`
(R262, R263, R272). `armed` says that a `LISTEN` has been issued and no `STOP` since. -/
def dutiful : Bool → List Instr → Bool
  | _, [] => true
  | armed, i :: is => (armed || !i.feedsBytes) && dutiful (i.armsAfter armed) is

end Sys2Proof.Machine
end

