-- ==== Sys2Proof/Certificates/Slice0/Obligations.lean ====
section
/-! DEFINITION. The statements about the link block, each a proposition; none is proved here. Every
statement speaks of every state and every configuration it does not restrict by a hypothesis, so for both
values of `P_STOP_STICKY` and every `T_INACT >= 1`. -/

open Sys2Proof Sys2Proof.Machine

/-! ### Reset, step, command stream -/

/-- Reset (10_state.md section 8): the values of R23. Only `rx_state = LISTENING` is RF's; the others are the
spec's own choice (D9, log 4), and the default configuration of `State.reset` is log 2. -/
def Obligations.ResetIsLegalAndIdle : Prop :=
  State.reset = State.resetWith { tInact := 1000, stopSticky := true } ∧
  State.reset.Legal ∧
  ∀ c : Config, c.Legal →
    (State.resetWith c).Legal ∧
    (State.resetWith c).rxState = .listening ∧ (State.resetWith c).rxBuf = [] ∧
    (State.resetWith c).rxExpected = 0 ∧ (State.resetWith c).cb = 0 ∧
    (State.resetWith c).cbValid = false ∧ (State.resetWith c).tmrEn = true ∧
    (State.resetWith c).tmrRun = false ∧ (State.resetWith c).tmrCnt = 0 ∧
    (State.resetWith c).cfg = c ∧ (State.resetWith c).trace = []

/-- A step runs the operation the stream begins with, on the state whose stream is moved past it; a stream
that does not begin with an operation is refused (30_encoding.md section 4; the stream as state is log 1). -/
def Obligations.StepRunsTheDecodedOperation : Prop :=
  (∀ (s : State) (i : Instr) (rest : List Byte),
    decode s.stream = .ok (i, rest) → step s = exec i { s with stream := rest }) ∧
  (∀ (s : State) (why : DecodeError),
    decode s.stream = .error why → step s = .refused (.notAnOperation why))

/-- Words written out from the table of 30_encoding.md section 4, one per selector. -/
def Obligations.SampleWordsDecode : Prop :=
  decode [0x01, 0x02, 0x00, 0x06, 0x01, 0xEE] = .ok (.crcCompute [0x06, 0x01], [0xEE]) ∧
  decode [0x02, 0x01, 0x00, 0x5A] = .ok (.frame [0x5A], []) ∧
  decode [0x03, 0x07, 0x04] = .ok (.listen 0x07, [0x04]) ∧
  decode [0x04, 0x04] = .ok (.stop, [0x04]) ∧
  decode [0x05, 0xFF] = .ok (.rxb 0xFF, []) ∧
  decode [0x06, 0x00, 0x00, 0x01] = .ok (.rxchunk [], [0x01]) ∧
  decode [0x07] = .ok (.tick, []) ∧
  decode [0x08, 0xE8, 0x03] = .ok (.ticks 1000, [])

/-- Decoding the string of a well-formed operation gives the operation back and the rest of the stream. -/
def Obligations.DecodeEncodeRoundTrip : Prop :=
  ∀ (i : Instr) (rest : List Byte), i.wellFormed = true → decode (encode i ++ rest) = .ok (i, rest)

/-- What the decoder accepts is exactly the string of a well-formed operation, followed by the rest. -/
def Obligations.DecodeAcceptsOnlyEncodings : Prop :=
  ∀ (bs rest : List Byte) (i : Instr),
    decode bs = .ok (i, rest) → i.wellFormed = true ∧ bs = encode i ++ rest

/-- Reserved selectors and incomplete operands are refused by name, and a step on them is refused
(30_encoding.md section 4; the refusal is the spec's own choice, D19). -/
def Obligations.ReservedAndTruncatedAreRefused : Prop :=
  (∀ (sel : Byte) (rest : List Byte), sel = 0 ∨ 9 ≤ sel.toNat →
    decode (sel :: rest) = .error (.reservedSelector sel)) ∧
  (∀ (i : Instr) (start missing : List Byte), i.wellFormed = true → encode i = start ++ missing →
    start ≠ [] → missing ≠ [] → decode start = .error (.truncatedOperand i.op)) ∧
  (∀ (s : State) (sel : Byte) (rest : List Byte), s.stream = sel :: rest → sel = 0 ∨ 9 ≤ sel.toNat →
    step s = .refused (.notAnOperation (.reservedSelector sel)))

/-! ### The Checksum Engine -/

/-- R42, R102: a word is four consecutive bytes of the padded input, the lower index the less significant. -/
def Obligations.WordsAreLittleEndian : Prop :=
  (∀ b0 b1 b2 b3 : Byte,
    (le32 b0 b1 b2 b3).toNat =
      b0.toNat + 256 * b1.toNat + 65536 * b2.toNat + 16777216 * b3.toNat) ∧
  words [] = [] ∧
  (∀ s : List Byte, (words s).length = (pad4 s).length / 4) ∧
  (∀ (s : List Byte) (k : Nat) (b0 b1 b2 b3 : Byte),
    (pad4 s)[4 * k]? = some b0 → (pad4 s)[4 * k + 1]? = some b1 →
    (pad4 s)[4 * k + 2]? = some b2 → (pad4 s)[4 * k + 3]? = some b3 →
    (words s)[k]? = some (le32 b0 b1 b2 b3))

/-- R43: the four bytes of a word, least significant first, and `le32` takes them back; the Framer appends the
checksum so, and the Receiver compares the trailer as such a value. -/
def Obligations.TrailerBytesAreLittleEndian : Prop :=
  (∀ w : Word, bytesLe w =
    [BitVec.ofNat 8 w.toNat, BitVec.ofNat 8 (w.toNat / 256), BitVec.ofNat 8 (w.toNat / 65536),
      BitVec.ofNat 8 (w.toNat / 16777216)]) ∧
  (∀ w : Word, le32? (bytesLe w) = some w) ∧
  (∀ b0 b1 b2 b3 : Byte, bytesLe (le32 b0 b1 b2 b3) = [b0, b1, b2, b3]) ∧
  (∀ payload : List Byte, 1 ≤ payload.length → payload.length ≤ 250 →
    (packet payload).drop (payload.length + 1) =
      bytesLe (crcCompute ((packet payload).take (payload.length + 1)))) ∧
  (∀ (head : List Byte) (w : Word), checksumMatches (head ++ bytesLe w) (head.length + 4) = true ↔
    w = crcCompute head)

/-- R101: zero bytes after the data, up to the least multiple of 4. -/
def Obligations.PaddingGoesAfterTheData : Prop :=
  pad4 [] = [] ∧
  ∀ s : List Byte,
    pad4 s = s ++ List.replicate ((4 - s.length % 4) % 4) 0 ∧
    (pad4 s).length % 4 = 0 ∧
    (∀ m : Nat, m % 4 = 0 → s.length ≤ m → (pad4 s).length ≤ m)

/-- R103 on numbers: the top bit is tested before the shift and lost by it. -/
def Obligations.CrcBitStep : Prop :=
  ∀ c : Word,
    (2147483648 ≤ c.toNat → (crcBit c).toNat = (2 * c.toNat - 4294967296) ^^^ 0x04C11DB7) ∧
    (c.toNat < 2147483648 → (crcBit c).toNat = 2 * c.toNat)

/-- R104, R105: `CRC.COMPUTE` completes in every state, emits one `RET(CRC, value)` and changes nothing
else; the value is the fold of the word step over the words, from `INIT`, with nothing after it. -/
def Obligations.CrcComputeReturnsTheFold : Prop :=
  ∀ (bytes : List Byte) (s : State),
    exec (.crcCompute bytes) s =
      .next { s with trace := s.trace ++
        [.retCrc ((words bytes).foldl (fun c w => crcBit^[32] (c ^^^ w)) 0xFFFFFFFF)] }

/-- R107. -/
def Obligations.CrcOfNothingIsInit : Prop :=
  ∀ s : State, exec (.crcCompute []) s = .next { s with trace := s.trace ++ [.retCrc 0xFFFFFFFF] }

/-- Padding equivalence (40_crc.md section 3): zero bytes inside the last word change nothing. -/
def Obligations.CrcIgnoresZerosInTheLastWord : Prop :=
  ∀ (bytes : List Byte) (k : Nat), bytes.length + k ≤ (pad4 bytes).length →
    crcCompute (bytes ++ List.replicate k 0) = crcCompute bytes

/-- Byte-serial equivalence (40_crc.md section 3). -/
def Obligations.CrcEqualsTheByteSerialProcedure : Prop :=
  ∀ bytes : List Byte, crcCompute bytes = crcByteSerial (rev4 (pad4 bytes))

/-- Single-bit sensitivity (40_crc.md section 3): flipping one bit of the input changes the checksum. -/
def Obligations.CrcDetectsEverySingleBit : Prop :=
  ∀ (bytes : List Byte) (k : Nat) (j : Nat) (b : Byte), bytes[k]? = some b → j < 8 →
    crcCompute (bytes.set k (b ^^^ BitVec.ofNat 8 (2 ^ j))) ≠ crcCompute bytes

/-- A leading all-ones word cancels `INIT`, and zero bytes after it go undetected (40_crc.md section 3). -/
def Obligations.CrcMissesZerosAfterAllOnes : Prop :=
  ∀ k : Nat, crcCompute ([0xFF, 0xFF, 0xFF, 0xFF] ++ List.replicate k 0) = 0

/-! ### The Packet Framer -/

/-- R120: `FRAME` completes in every state for every payload. A legal payload gives one `TX` of the packet and
`RET(FRAME, OK)`, any other only `RET(FRAME, InvalidArgument)`; nothing else changes. -/
def Obligations.FrameSendsOrRejects : Prop :=
  ∀ (payload : List Byte) (s : State),
    (1 ≤ payload.length → payload.length ≤ 250 →
      exec (.frame payload) s = .next { s with trace := s.trace ++
        [.tx ((BitVec.ofNat 8 (payload.length + 5) :: payload) ++
            bytesLe (crcCompute (BitVec.ofNat 8 (payload.length + 5) :: payload))),
          .retFrame .ok] }) ∧
    (payload.length = 0 ∨ 250 < payload.length →
      exec (.frame payload) s = .next { s with trace := s.trace ++ [.retFrame .invalidArgument] })

/-- R131: fails at 0 and 251 bytes, succeeds at 1 and 250 with packets of 6 and 255 bytes. -/
def Obligations.FrameBoundarySizes : Prop :=
  ∀ (payload : List Byte) (s : State),
    (payload.length = 0 ∨ payload.length = 251 →
      exec (.frame payload) s = .next { s with trace := s.trace ++ [.retFrame .invalidArgument] }) ∧
    (payload.length = 1 → ∃ pkt : List Byte, pkt.length = 6 ∧
      exec (.frame payload) s = .next { s with trace := s.trace ++ [.tx pkt, .retFrame .ok] }) ∧
    (payload.length = 250 → ∃ pkt : List Byte, pkt.length = 255 ∧
      exec (.frame payload) s = .next { s with trace := s.trace ++ [.tx pkt, .retFrame .ok] })

/-- The packet a successful `FRAME` sends is a packet (41_framer.md section 3): its first byte is its
length, the payload stands unchanged after it, the last four bytes are the checksum of what precedes. -/
def Obligations.SentPacketIsWellFormed : Prop :=
  ∀ (payload : List Byte) (s : State), 1 ≤ payload.length → payload.length ≤ 250 →
    ∃ pkt : List Byte,
      exec (.frame payload) s = .next { s with trace := s.trace ++ [.tx pkt, .retFrame .ok] } ∧
      pkt.length = payload.length + 5 ∧
      (pkt.head?.map BitVec.toNat) = some pkt.length ∧
      (pkt.drop 1).take payload.length = payload ∧
      le32? (pkt.drop (payload.length + 1)) = some (crcCompute (pkt.take (payload.length + 1)))

/-! ### The Packet Receiver -/

/-- `LISTEN` (42_receiver.md section 1, 70_reset_and_hazards.md section 1): the reset state with the
callback installed. That it clears `rx_expected` and stops and enables the timer is the spec's own choice
(D15, D6, log 13). The configuration and the events emitted so far stay. -/
def Obligations.ListenIsTheSoftReset : Prop :=
  ∀ (handle : Handle) (s : State), s.Legal →
    exec (.listen handle) s = .next { State.resetWith s.cfg with
      cb := handle, cbValid := true, stream := s.stream, trace := s.trace }

/-- `STOP` (42_receiver.md section 2): the timer only. That it keeps the timer disabled is the open parameter
`P_STOP_STICKY` (D7, log 10). -/
def Obligations.StopStopsTheTimerOnly : Prop :=
  ∀ s : State, s.Legal →
    exec .stop s = .next { s with
      tmrRun := false, tmrCnt := 0, tmrEn := s.tmrEn && !s.cfg.stopSticky }

/-- `LISTEN` twice is `LISTEN` once with the second handle, and `STOP` twice is `STOP` once (42_receiver.md
sections 1 and 2). -/
def Obligations.ListenAndStopAreIdempotent : Prop :=
  ∀ (first second : Handle) (s : State), s.Legal →
    (∃ t, runOps [.listen first, .listen second] s = .next t ∧ exec (.listen second) s = .next t) ∧
    (∃ t, runOps [.stop, .stop] s = .next t ∧ exec .stop s = .next t)

/-- R143: a byte below 6 in `Listening` is discarded: not buffered, no transition, nothing reported. -/
def Obligations.NoiseIsDiscarded : Prop :=
  ∀ (b : Byte) (s : State), s.Legal → s.rxState = .listening → b.toNat < 6 →
    ∃ t, exec (.rxb b) s = .next t ∧ t.rxState = .listening ∧ t.rxBuf = s.rxBuf ∧
      t.rxExpected = s.rxExpected ∧ t.trace = s.trace

/-- R144: a byte of 6 or more in `Listening` is recorded as the expected length, appended to the buffer, and
assembly begins. -/
def Obligations.LengthByteBeginsAssembly : Prop :=
  ∀ (b : Byte) (s : State), s.Legal → s.rxState = .listening → 6 ≤ b.toNat →
    ∃ t, exec (.rxb b) s = .next t ∧ t.rxState = .assembling ∧ t.rxBuf = s.rxBuf ++ [b] ∧
      t.rxBuf[0]? = some b ∧ t.rxExpected = b ∧ t.trace = s.trace

/-- R146 to R149: the byte that reaches the expected length splits the buffer into the head, which begins with
the length byte, and a trailer of four bytes; on a match the payload, the head without the length byte, goes to the
registered callback once; whether or not the checksum matched the buffer is cleared and the state is
`Listening`. -/
def Obligations.CompletePacketIsChecked : Prop :=
  ∀ (b : Byte) (s : State) (head trailer : List Byte), s.Legal → s.rxState = .assembling →
    s.cbValid = true → s.rxBuf.length + 1 = s.rxExpected.toNat →
    s.rxBuf ++ [b] = head ++ trailer → trailer.length = 4 →
    ∃ t payload, exec (.rxb b) s = .next t ∧ t.rxState = .listening ∧ t.rxBuf = [] ∧
      head = s.rxExpected :: payload ∧
      head.length = s.rxExpected.toNat - 4 ∧ 2 ≤ head.length ∧ head.length ≤ 251 ∧
      payload.length = s.rxExpected.toNat - 5 ∧ 1 ≤ payload.length ∧ payload.length ≤ 250 ∧
      (le32? trailer = some (crcCompute head) ↔ bytesLe (crcCompute head) = trailer) ∧
      (le32? trailer = some (crcCompute head) → t.trace = s.trace ++ [.deliver s.cb payload]) ∧
      (le32? trailer ≠ some (crcCompute head) → t.trace = s.trace)

/-- `RXB` whole (42_receiver.md section 3): the next state in each of the four cases. The restart depends on
`tmr_en` by the spec's own choice (D7, log 10); with no callback installed a matching packet is
discarded, the spec's own choice (D10, log 12). -/
def Obligations.RxbTransitions : Prop :=
  ∀ (b : Byte) (s : State), s.Legal →
    (s.rxState = .listening → b.toNat < 6 →
      exec (.rxb b) s = .next { s with
        tmrRun := s.tmrEn, tmrCnt := if s.tmrEn then s.cfg.tInact else 0 }) ∧
    (s.rxState = .listening → 6 ≤ b.toNat →
      exec (.rxb b) s = .next { s with
        rxState := .assembling, rxBuf := [b], rxExpected := b
        tmrRun := s.tmrEn, tmrCnt := if s.tmrEn then s.cfg.tInact else 0 }) ∧
    (s.rxState = .assembling → s.rxBuf.length + 1 < s.rxExpected.toNat →
      exec (.rxb b) s = .next { s with
        rxBuf := s.rxBuf ++ [b]
        tmrRun := s.tmrEn, tmrCnt := if s.tmrEn then s.cfg.tInact else 0 }) ∧
    (s.rxState = .assembling → s.rxBuf.length + 1 = s.rxExpected.toNat →
      exec (.rxb b) s = .next { s with
        rxState := .listening, rxBuf := []
        tmrRun := s.tmrEn, tmrCnt := if s.tmrEn then s.cfg.tInact else 0
        trace := s.trace ++
          if checksumMatches (s.rxBuf ++ [b]) s.rxExpected.toNat = true ∧ s.cbValid = true then
            [.deliver s.cb (payloadOf (s.rxBuf ++ [b]) s.rxExpected.toNat)]
          else [] })

/-- `RXCHUNK` completes in every legal state and is its bytes as `RXB`s, in order (42_receiver.md section 4;
the empty chunk does nothing, the spec's own choice, D24, log 8). -/
def Obligations.RxchunkIsItsBytes : Prop :=
  ∀ (bytes : List Byte) (s : State), s.Legal →
    ∃ t, exec (.rxchunk bytes) s = .next t ∧ runOps (bytes.map .rxb) s = .next t ∧
      (bytes = [] → t = s)

/-- R153: however a byte sequence is cut into chunks, the final state and the events are the same. -/
def Obligations.ChunkBoundariesDoNotMatter : Prop :=
  ∀ (chunks : List (List Byte)) (s : State), s.Legal →
    ∃ t, runOps (chunks.map .rxchunk) s = .next t ∧ exec (.rxchunk chunks.flatten) s = .next t

/-- What a whole candidate packet does, any bytes of any declared length (42_receiver.md sections 3 and 5,
70_reset_and_hazards.md section 3): delivered once if its last four bytes are the checksum of the others,
dropped in silence if not, and the receiver listens again with an empty buffer. Bytes that have the form of a packet
are accepted wherever they come from. That a matching packet is discarded while no callback is installed is the
spec's own choice (D10, log 12); that the timer is restarted only if it is enabled is the open parameter
(D7, log 10). -/
def Obligations.CandidatePacketOutcome : Prop :=
  ∀ (first : Byte) (body : List Byte) (s : State), s.Legal → s.rxState = .listening →
    6 ≤ first.toNat → body.length + 1 = first.toNat →
    exec (.rxchunk (first :: body)) s = .next { s with
      rxExpected := first
      tmrRun := s.tmrEn, tmrCnt := if s.tmrEn then s.cfg.tInact else 0
      trace := s.trace ++
        if le32? ((first :: body).drop (first.toNat - 4)) =
            some (crcCompute ((first :: body).take (first.toNat - 4))) ∧ s.cbValid = true then
          [.deliver s.cb (((first :: body).take (first.toNat - 4)).drop 1)]
        else [] }

/-- Round trip (42_receiver.md section 5): the bytes `FRAME` sends, fed one by one to a receiver that listens with
a callback installed, deliver exactly the payload, once, and leave it listening with an empty buffer. Its
states include those after `STOP`, where it rests on the spec's own choice that bytes are still processed
(D8, log 11). -/
def Obligations.FramedPayloadIsDelivered : Prop :=
  ∀ (payload : List Byte) (s : State), s.Legal → s.rxState = .listening → s.cbValid = true →
    1 ≤ payload.length → payload.length ≤ 250 →
    ∃ pkt t,
      exec (.frame payload) s = .next { s with trace := s.trace ++ [.tx pkt, .retFrame .ok] } ∧
      runOps (pkt.map .rxb) s = .next t ∧
      t.trace = s.trace ++ [.deliver s.cb payload] ∧ t.position = (.listening, 0)

/-- Packets back to back in one chunk are each delivered, in order (42_receiver.md section 4). The states include
those after `STOP`, where it rests on the spec's own choice that bytes are still processed (D8, log 11). -/
def Obligations.BackToBackPacketsAreDelivered : Prop :=
  ∀ (payloads : List (List Byte)) (s : State), s.Legal → s.rxState = .listening → s.cbValid = true →
    (∀ p ∈ payloads, 1 ≤ p.length ∧ p.length ≤ 250) →
    ∃ t, exec (.rxchunk (payloads.flatMap packet)) s = .next t ∧
      t.trace = s.trace ++ payloads.map (.deliver s.cb) ∧ t.position = (.listening, 0)

/-- One flipped bit anywhere in a packet but in its length byte: no delivery, and the receiver is ready for
the next packet (42_receiver.md section 5). -/
def Obligations.SingleBitCorruptionIsDropped : Prop :=
  ∀ (payload : List Byte) (k j : Nat) (b : Byte) (s : State), s.Legal → s.rxState = .listening →
    1 ≤ payload.length → payload.length ≤ 250 → 1 ≤ k → (packet payload)[k]? = some b → j < 8 →
    ∃ t, exec (.rxchunk ((packet payload).set k (b ^^^ BitVec.ofNat 8 (2 ^ j)))) s = .next t ∧
      t.trace = s.trace ∧ t.position = (.listening, 0)

/-! ### The inactivity timer -/

/-- `TICK` (43_timer.md section 2; the tick is the spec's rendering, D3, D5, log 9): the three cases. -/
def Obligations.TickCountsAndExpires : Prop :=
  ∀ s : State, s.Legal →
    (s.tmrRun = false → exec .tick s = .next s) ∧
    (s.tmrRun = true → 2 ≤ s.tmrCnt → exec .tick s = .next { s with tmrCnt := s.tmrCnt - 1 }) ∧
    (s.tmrRun = true → s.tmrCnt = 1 →
      exec .tick s = .next { s with
        tmrRun := false, tmrCnt := 0, rxBuf := [], rxState := .listening })

/-- `TICKS n` completes in every legal state and is `n` times `TICK` (43_timer.md section 2). -/
def Obligations.TicksIsRepeatedTick : Prop :=
  ∀ (n : Nat) (s : State), s.Legal →
    ∃ t, exec (.ticks n) s = .next t ∧ runOps (List.replicate n .tick) s = .next t

/-- After any byte the timer expires on the `T_INACT`-th tick and not before, and once (43_timer.md sections
1 and 2; the exact boundary and the one-shot are the spec's own choice, D4, D5, log 9). -/
def Obligations.TimerExpiresOnTheLastTick : Prop :=
  ∀ (b : Byte) (n : Nat) (s : State), s.Legal → s.tmrEn = true →
    ∃ t, exec (.rxb b) s = .next t ∧
      (n < s.cfg.tInact →
        exec (.ticks n) t = .next { t with tmrCnt := s.cfg.tInact - n }) ∧
      (s.cfg.tInact ≤ n →
        exec (.ticks n) t = .next { t with
          tmrRun := false, tmrCnt := 0, rxBuf := [], rxState := .listening })

/-- Inactivity reset (43_timer.md section 3): whatever partial packet is pending, after `T_INACT` ticks or more a
complete packet delivers its own payload and nothing else. RF speaks of waiting longer than the timeout; that
exactly `T_INACT` ticks are enough is the spec's own choice (D4, log 9). -/
def Obligations.StalePartialPacketIsAbandoned : Prop :=
  ∀ (payload : List Byte) (n : Nat) (s : State), s.Legal → s.tmrRun = true → s.cbValid = true →
    s.cfg.tInact ≤ n → 1 ≤ payload.length → payload.length ≤ 250 →
    ∃ t, runOps [.ticks n, .rxchunk (packet payload)] s = .next t ∧
      t.trace = s.trace ++ [.deliver s.cb payload] ∧ t.position = (.listening, 0)

/-- After `STOP` no timeout occurs until a byte restarts the timer, and with `P_STOP_STICKY` not until a
`LISTEN` (43_timer.md section 3): the receiver keeps what it holds, and the timer stays stopped. -/
def Obligations.NoTimeoutAfterStop : Prop :=
  ∀ (ops : List Instr) (s : State), s.Legal → (∀ i ∈ ops, ∀ h, i ≠ .listen h) →
    ((∀ i ∈ ops, i.feedsBytes = false) →
      ∃ t, runOps (.stop :: ops) s = .next t ∧ t.tmrRun = false ∧ t.rxState = s.rxState ∧
        t.rxBuf = s.rxBuf ∧ t.rxExpected = s.rxExpected) ∧
    (s.cfg.stopSticky = true → ∃ t, runOps (.stop :: ops) s = .next t ∧ t.tmrRun = false)

/-- Bound on a wedge (43_timer.md section 3): from `Assembling`, `T_INACT` ticks of a running timer, or the bytes
that are still missing (at most 254), bring the receiver back to `Listening` with an empty buffer. The tick, and
that exactly `T_INACT` of them are enough, are the spec's own choice (D3, D4, log 9). -/
def Obligations.AssemblingIsBounded : Prop :=
  ∀ s : State, s.Legal → s.rxState = .assembling →
    (s.tmrRun = true →
      ∃ t, exec (.ticks s.cfg.tInact) s = .next t ∧ t.position = (.listening, 0)) ∧
    s.rxExpected.toNat - s.rxBuf.length ≤ 254 ∧
    (∀ bytes : List Byte, bytes.length = s.rxExpected.toNat - s.rxBuf.length →
      ∃ t, exec (.rxchunk bytes) s = .next t ∧ t.position = (.listening, 0))

/-- An expiry in `Listening` is invisible (43_timer.md section 3): with the timer stopped instead of running, every
later operation emits the same events and leaves the same state but for the timer. -/
def Obligations.ExpiryInListeningIsInvisible : Prop :=
  ∀ (ops : List Instr) (s : State), s.Legal → s.rxState = .listening →
    ∃ t t', runOps ops s = .next t ∧ runOps ops { s with tmrRun := false, tmrCnt := 0 } = .next t' ∧
      t'.trace = t.trace ∧ t' = { t with tmrRun := t'.tmrRun, tmrCnt := t'.tmrCnt }

/-- The untimed reading (43_timer.md section 3): every run of the timed machine is a run of the untimed one, each
tick operation a `TIMEOUT` or nothing, every other operation itself. -/
def Obligations.TimedRunsAreUntimedRuns : Prop :=
  (∀ (i : Instr) (s t : State), s.Legal → exec i s = .next t →
    ∃ us, untimedRun us s.forgetCount = some t.forgetCount ∧
      (us = [.op i] ∨ ((i = .tick ∨ ∃ n, i = .ticks n) ∧ (us = [] ∨ us = [.timeout])))) ∧
  (∀ (ops : List Instr) (s t : State), s.Legal → runOps ops s = .next t →
    ∃ us, untimedRun us s.forgetCount = some t.forgetCount ∧ us.length ≤ ops.length)

/-! ### The whole machine -/

/-- The invariants of 10_state.md section 5, with `T_INACT >= 1`, are kept by every step from every state
that meets them, whatever its command stream. -/
def Obligations.StepKeepsTheInvariants : Prop :=
  ∀ s t : State, s.Legal → step s = .next t → t.Legal

/-- Every state reachable from reset by operations meets the invariants (10_state.md section 5): clause by
clause. -/
def Obligations.ReachableStatesMeetTheInvariants : Prop :=
  ∀ s : State, Reachable s →
    (s.rxState = .listening → s.rxBuf = []) ∧
    (s.rxState = .assembling → 1 ≤ s.rxBuf.length ∧ s.rxBuf.length < s.rxExpected.toNat ∧
      s.rxBuf.head? = some s.rxExpected ∧ 6 ≤ s.rxExpected.toNat ∧ s.rxExpected.toNat ≤ 255) ∧
    s.rxBuf.length ≤ 254 ∧
    (s.tmrRun = true → 1 ≤ s.tmrCnt ∧ s.tmrCnt ≤ s.cfg.tInact) ∧
    (s.tmrRun = false → s.tmrCnt = 0) ∧
    (s.tmrRun = true → s.tmrEn = true)

/-- Every operation is total (60_exceptions.md section 1): in every state that meets the invariants it answers a
next state, which meets them. -/
def Obligations.EveryOperationCompletes : Prop :=
  ∀ (i : Instr) (s : State), s.Legal → ∃ t, exec i s = .next t ∧ t.Legal

/-- A state outside the invariants has no meaning for the receive path and is refused by name (the spec's
own choice, D22; which operations refuse is log 6). -/
def Obligations.StatesOutsideTheInvariantsAreRefused : Prop :=
  ∀ (i : Instr) (s : State), ¬ s.Legal → i.isReceivePath = true →
    exec i s = .refused .outsideInvariants

/-- Frame of every operation (10_state.md section 1, column "written by"): an element changes only under the
operations listed for it; the configuration and the rest of the stream change under none. -/
def Obligations.OnlyListedOperationsWrite : Prop :=
  ∀ (i : Instr) (s t : State), exec i s = .next t →
    t.cfg = s.cfg ∧ t.stream = s.stream ∧
    ((∀ h, i ≠ .listen h) → t.cb = s.cb ∧ t.cbValid = s.cbValid) ∧
    ((∀ h, i ≠ .listen h) → i ≠ .stop → t.tmrEn = s.tmrEn) ∧
    ((∀ h, i ≠ .listen h) → (∀ b, i ≠ .rxb b) → (∀ bs, i ≠ .rxchunk bs) →
      t.rxExpected = s.rxExpected) ∧
    (i = .stop ∨ i.isReceivePath = false → t.rxState = s.rxState ∧ t.rxBuf = s.rxBuf) ∧
    (i.isReceivePath = false → t.tmrRun = s.tmrRun ∧ t.tmrCnt = s.tmrCnt)

/-- Which operation emits what (30_encoding.md section 5, 20_memory.md section 4): events are appended, never
taken back; `DELIVER` comes from received bytes only and at most once per byte, `TX` and `RET(FRAME, ..)` from
`FRAME` only, `RET(CRC, ..)` from `CRC.COMPUTE` only. -/
def Obligations.EventsComeFromTheirOperation : Prop :=
  ∀ (i : Instr) (s t : State), exec i s = .next t →
    ∃ es, t.trace = s.trace ++ es ∧
      (∀ h p, Event.deliver h p ∈ es → h = s.cb ∧ s.cbValid = true ∧ 1 ≤ p.length ∧ p.length ≤ 250 ∧
        i.feedsBytes = true) ∧
      (∀ pkt, Event.tx pkt ∈ es → ∃ p, i = .frame p ∧ pkt = packet p) ∧
      (∀ r, Event.retFrame r ∈ es → ∃ p, i = .frame p) ∧
      (∀ v, Event.retCrc v ∈ es → ∃ bs, i = .crcCompute bs) ∧
      (∀ b, i = .rxb b → es.length ≤ 1)

/-- The send path and the receive path commute (20_memory.md section 5): the same final state and the same
events of each path in either order. -/
def Obligations.SendAndReceivePathsCommute : Prop :=
  ∀ (i j : Instr) (s : State), s.Legal → i.isReceivePath = false → j.isReceivePath = true →
    ∃ t u, runOps [i, j] s = .next t ∧ runOps [j, i] s = .next u ∧
      { t with trace := [] } = { u with trace := [] } ∧
      t.trace.filter Event.isDelivery = u.trace.filter Event.isDelivery ∧
      t.trace.filter (fun e => !e.isDelivery) = u.trace.filter (fun e => !e.isDelivery)

/-- A byte and an expiring tick that are ready together run in either order, with different results
(60_exceptions.md section 3). -/
def Obligations.ByteAndExpiryRunInEitherOrder : Prop :=
  ∀ (b : Byte) (s : State), s.Legal → s.rxState = .assembling → s.tmrRun = true → s.tmrCnt = 1 →
    2 ≤ s.cfg.tInact → 6 ≤ b.toNat → s.rxBuf.length + 1 < s.rxExpected.toNat →
    (∃ t, runOps [.tick, .rxb b] s = .next t ∧ t.rxState = .assembling ∧ t.rxBuf = [b] ∧
      t.rxExpected = b) ∧
    (∃ u, runOps [.rxb b, .tick] s = .next u ∧ u.rxState = .assembling ∧ u.rxBuf = s.rxBuf ++ [b] ∧
      u.rxExpected = s.rxExpected ∧ u.tmrRun = true ∧ u.tmrCnt = s.cfg.tInact - 1)

/-- The four conditions (60_exceptions.md sections 1, 3 and 4; their codes are the spec's own, D13): `FRAME` raises
`InvalidArgument` exactly when it reports it; a byte or a tick raises at most one condition, emits nothing when it does, and
ends in `Listening` with an empty buffer. -/
def Obligations.ConditionsAreSilentAndEndListening : Prop :=
  (∀ (payload : List Byte) (s : State),
    conditionsOf (.frame payload) s = [.invalidArgument] ↔
      exec (.frame payload) s = .next { s with trace := s.trace ++ [.retFrame .invalidArgument] }) ∧
  (∀ (i : Instr) (s : State), s.Legal → (∃ b, i = .rxb b) ∨ i = .tick →
    (conditionsOf i s).length ≤ 1 ∧
    (∀ c ∈ conditionsOf i s, c.surfaced = false ∧
      ∃ t, exec i s = .next t ∧ t.trace = s.trace ∧ t.position = (.listening, 0)))

/-- A host that keeps its duties (70_reset_and_hazards.md section 2) cannot tell the two values of the open
parameter `P_STOP_STICKY` apart: same events, same state but for the parameter and `tmr_en`. -/
def Obligations.DutifulHostCannotSeeStopSticky : Prop :=
  ∀ (ops : List Instr) (sticky : Bool) (s : State), s.Legal → dutiful true ops = true →
    ∃ t t', runOps ops s = .next t ∧
      runOps ops { s with cfg := { s.cfg with stopSticky := sticky } } = .next t' ∧
      t'.trace = t.trace ∧
      t' = { t with tmrEn := t'.tmrEn, cfg := { t.cfg with stopSticky := sticky } }

/-! ### Outside the block: the host's command layer -/

/-- R201: the 11 bytes of a date and time command. -/
def Obligations.DateTimePayloadBytes : Prop :=
  ∀ d : DateTime, d.InRange →
    d.payload.length = 11 ∧
    d.payload.map BitVec.toNat =
      [1, 0, 0, 0, d.year - 2000, d.month, d.day, d.dayOfWeek, d.hour, d.minute, d.second]

/-- The Command Queue is first in, first out (50_host_command_layer.md section 2): the commands queued when a
drain begins are framed in their order, before any that the drain itself enqueues. A drain is the model's
host-side rendering, and only one in which every `FRAME` succeeds is one (`Drain`, N17, log 21). -/
def Obligations.CommandsAreFramedInQueueOrder : Prop :=
  ∀ (queue : List Command) (ops : List Instr), Drain queue ops →
    ∃ later, ops = queue.map Command.toFrame ++ later
end

