-- ==== Sys2Proof/Laws/Operands.lean ====
section
/-! SUPPORT. Byte order, padding and slices: what `le32`, `bytesLe`, `pad4`, `wordsOf` and the slices of a
buffer answer on sequences of known shape. -/

namespace Sys2Proof.Machine

@[simp] theorem bytesLe_length (w : Word) : (bytesLe w).length = 4 := rfl

/-- The four bytes of a word assemble to it again (R43). -/
@[simp] theorem le32?_bytesLe (w : Word) : le32? (bytesLe w) = some w := by
  unfold le32? bytesLe le32
  simp only [Option.some.injEq]
  ext i hi
  simp only [BitVec.getElem_or, BitVec.getElem_shiftLeft, BitVec.getElem_setWidth,
    BitVec.getLsbD_extractLsb']
  obtain h | h | h | h : i < 8 ∨ (8 ≤ i ∧ i < 16) ∨ (16 ≤ i ∧ i < 24) ∨ (24 ≤ i ∧ i < 32) := by omega
  all_goals
    simp only [BitVec.getElem_eq_testBit_toNat, BitVec.getLsbD]
    grind

theorem pad4_eq (s : List Byte) :
    pad4 s = s ++ List.replicate ((4 - s.length % 4) % 4) 0 := rfl

theorem pad4_length (s : List Byte) : (pad4 s).length = s.length + (4 - s.length % 4) % 4 := by
  simp [pad4_eq]

theorem pad4_length_mod (s : List Byte) : (pad4 s).length % 4 = 0 := by
  rw [pad4_length]; omega

/-- A sequence of whole words needs no padding. -/
theorem pad4_of_mod (s : List Byte) (h : s.length % 4 = 0) : pad4 s = s := by
  simp [pad4_eq, h]

/-- Words of a concatenation, where the first part is whole words. -/
theorem wordsOf_append : ∀ (a b : List Byte), a.length % 4 = 0 →
    wordsOf (a ++ b) = wordsOf a ++ wordsOf b
  | [], _, _ => rfl
  | [_], _, h => by simp at h
  | [_, _], _, h => by simp at h
  | [_, _, _], _, h => by simp at h
  | b0 :: b1 :: b2 :: b3 :: rest, b, h => by
    have : rest.length % 4 = 0 := by simp only [List.length_cons] at h; omega
    simp [wordsOf, wordsOf_append rest b this]

/-! ### Slices of a complete buffer -/

/-- A buffer that is a head followed by four bytes splits into them. -/
theorem headOf_append (head trailer : List Byte) :
    headOf (head ++ trailer) (head.length + 4) = head := by
  simp [headOf, slice, trailerBytes]

theorem trailerOf_append (head trailer : List Byte) (ht : trailer.length = 4) :
    trailerOf (head ++ trailer) (head.length + 4) = trailer := by
  simp [trailerOf, slice, trailerBytes, ← ht]

theorem payloadOf_append (b : Byte) (payload trailer : List Byte) :
    payloadOf (b :: payload ++ trailer) (payload.length + 5) = payload := by
  simp [payloadOf, slice, trailerBytes]

@[simp] theorem framerHead_length (payload : List Byte) :
    (framerHead payload).length = payload.length + 1 := rfl

end Sys2Proof.Machine
end

