-- ==== Sys2Proof/Laws/Checksum.lean ====
section
/-! SUPPORT. The checksum as iterations and folds, and the two facts its detection properties rest on:
a bit step is linear and injective. -/

namespace Sys2Proof.Machine

/-- Evaluating the word first changes nothing. -/
@[simp] theorem strictly_eq {α : Type} (w : Word) (k : Word → α) : strictly w k = k w := by
  unfold strictly
  have hw : BitVec.ofNat 32 w.toNat = w := by simp
  split <;> rename_i h
  · rw [← hw, h]
  · rw [← hw, h, Nat.succ_eq_add_one]

theorem crcBits_eq_iterate (n : Nat) (c : Word) : crcBits n c = crcBit^[n] c := by
  induction n generalizing c with
  | zero => rfl
  | succ n ih => rw [crcBits, strictly_eq, ih, Function.iterate_succ_apply]

theorem crcWord_eq (c w : Word) : crcWord c w = crcBit^[32] (c ^^^ w) := crcBits_eq_iterate _ _

theorem crcWords_eq_foldl (ws : List Word) (c : Word) : crcWords ws c = ws.foldl crcWord c := by
  induction ws generalizing c with
  | nil => rfl
  | cons w ws ih => rw [crcWords, strictly_eq, ih, List.foldl_cons]

theorem crcCompute_eq (bytes : List Byte) :
    crcCompute bytes = (words bytes).foldl crcWord crcInit := crcWords_eq_foldl _ _

/-- A bit step is linear over GF(2). -/
theorem crcBit_xor (a b : Word) : crcBit (a ^^^ b) = crcBit a ^^^ crcBit b := by
  unfold crcBit
  rw [BitVec.msb_xor, BitVec.shiftLeft_xor_distrib]
  cases a.msb <;> cases b.msb <;> simp only [Bool.xor_false, Bool.xor_true, Bool.not_false, Bool.not_true, if_true, Bool.false_eq_true, if_false]
  · ac_rfl
  · ac_rfl
  · rw [show (a <<< 1 ^^^ poly) ^^^ (b <<< 1 ^^^ poly) = (a <<< 1 ^^^ b <<< 1) ^^^ (poly ^^^ poly) by ac_rfl,
      BitVec.xor_self, BitVec.xor_zero]

theorem crcBit_iterate_xor (n : Nat) (a b : Word) :
    crcBit^[n] (a ^^^ b) = crcBit^[n] a ^^^ crcBit^[n] b := by
  induction n generalizing a b with
  | zero => rfl
  | succ n ih => simp only [Function.iterate_succ_apply, crcBit_xor, ih]

/-- A bit step loses nothing: the polynomial has constant term 1. -/
theorem crcBit_injective : Function.Injective crcBit := by
  intro a b h
  have hx : crcBit (a ^^^ b) = 0#32 := by rw [crcBit_xor, h, BitVec.xor_self]
  have h0 : a ^^^ b = 0#32 := by
    generalize a ^^^ b = c at hx
    unfold crcBit at hx
    split at hx
    · have := congrArg (fun x : Word => x.getLsbD 0) hx
      simp [poly] at this
    · rename_i hm
      have hm : c.toNat < 2147483648 := by
        rw [Bool.not_eq_true, BitVec.msb_eq_decide] at hm
        simpa using hm
      have := congrArg BitVec.toNat hx
      simp only [BitVec.toNat_shiftLeft, Nat.shiftLeft_eq] at this
      apply BitVec.eq_of_toNat_eq
      simp at this ⊢
      omega
  exact BitVec.xor_eq_zero_iff.1 h0

end Sys2Proof.Machine
end

