-- ==== Sys2Proof/Laws/Decode.lean ====
section
/-! SUPPORT. What the readers of the command stream answer: a count, counted data and a selector are read
back from what the encoder writes, and only from that. -/

namespace Sys2Proof

/-- A selector picks its own row. -/
@[simp] theorem ofSelector?_selector (op : Op) : Op.ofSelector? op.selector = some op := by
  cases op <;> rfl

/-- A row is picked by its own selector only. -/
theorem selector_of_ofSelector? {sel : Byte} {op : Op} (h : Op.ofSelector? sel = some op) :
    sel = op.selector := by
  have hsel : (op.selector == sel) = true :=
    List.find?_some (p := fun op : Op => op.selector == sel) h
  exact (eq_of_beq hsel).symm

@[simp] theorem countBytes_length (n : Nat) : (countBytes n).length = 2 := rfl

/-- A 16-bit count is read back. -/
theorem takeCount_countBytes {n : Nat} (h : n < countBound) (rest : List Byte) :
    takeCount (countBytes n ++ rest) = some (n, rest) := by
  simp [takeCount, countBytes, countBound] at *
  omega

/-- A count that is read was written, and fits 16 bits. -/
theorem takeCount_eq_some {bs rest : List Byte} {n : Nat} (h : takeCount bs = some (n, rest)) :
    bs = countBytes n ++ rest ∧ n < countBound := by
  match bs, h with
  | lo :: hi :: r, h =>
    simp only [takeCount, Option.some.injEq, Prod.mk.injEq] at h
    obtain ⟨rfl, rfl⟩ := h
    have := lo.isLt
    have := hi.isLt
    refine ⟨?_, by simp [countBound]; omega⟩
    simp only [countBytes, List.cons_append, List.nil_append, List.cons.injEq, and_true]
    refine ⟨BitVec.eq_of_toNat_eq ?_, BitVec.eq_of_toNat_eq ?_⟩ <;>
      simp only [BitVec.toNat_ofNat] <;> omega

/-- As many bytes as asked for are read off the front. -/
theorem takeExactly_append : ∀ data rest : List Byte,
    takeExactly data.length (data ++ rest) = some (data, rest)
  | [], _ => rfl
  | _ :: data, rest => by simp [takeExactly, takeExactly_append data rest]

/-- What is read off the front is the front, and has the length asked for. -/
theorem takeExactly_eq_some : ∀ {n : Nat} {bs data rest : List Byte},
    takeExactly n bs = some (data, rest) → bs = data ++ rest ∧ data.length = n
  | 0, bs, data, rest, h => by
    simp only [takeExactly, Option.some.injEq, Prod.mk.injEq] at h
    obtain ⟨rfl, rfl⟩ := h
    simp
  | n + 1, [], data, rest, h => by simp [takeExactly] at h
  | n + 1, b :: bs, data, rest, h => by
    simp only [takeExactly, Option.map_eq_some_iff, Prod.mk.injEq] at h
    obtain ⟨⟨data', rest'⟩, hrec, rfl, rfl⟩ := h
    obtain ⟨rfl, rfl⟩ := takeExactly_eq_some hrec
    simp

/-- Too few bytes are refused. -/
theorem takeExactly_eq_none : ∀ {n : Nat} {bs : List Byte}, bs.length < n → takeExactly n bs = none
  | _ + 1, [], _ => rfl
  | n + 1, b :: bs, h => by simp [takeExactly, takeExactly_eq_none (n := n) (by simpa using h)]

end Sys2Proof
end

