-- ==== Sys2Proof/Laws/State.lean ====
section
/-! SUPPORT. The fields of a state after each primitive update: one lemma per field per update. -/

namespace Sys2Proof.Machine

variable (s : State)

/-! ### emit -/

@[simp] theorem emit_rxState (e : Event) : (s.emit e).rxState = s.rxState := rfl
@[simp] theorem emit_rxBuf (e : Event) : (s.emit e).rxBuf = s.rxBuf := rfl
@[simp] theorem emit_rxExpected (e : Event) : (s.emit e).rxExpected = s.rxExpected := rfl
@[simp] theorem emit_cb (e : Event) : (s.emit e).cb = s.cb := rfl
@[simp] theorem emit_cbValid (e : Event) : (s.emit e).cbValid = s.cbValid := rfl
@[simp] theorem emit_tmrEn (e : Event) : (s.emit e).tmrEn = s.tmrEn := rfl
@[simp] theorem emit_tmrRun (e : Event) : (s.emit e).tmrRun = s.tmrRun := rfl
@[simp] theorem emit_tmrCnt (e : Event) : (s.emit e).tmrCnt = s.tmrCnt := rfl
@[simp] theorem emit_cfg (e : Event) : (s.emit e).cfg = s.cfg := rfl
@[simp] theorem emit_stream (e : Event) : (s.emit e).stream = s.stream := rfl
@[simp] theorem emit_trace (e : Event) : (s.emit e).trace = s.trace ++ [e] := rfl

/-! ### installCallback -/

@[simp] theorem installCallback_rxState (h : Handle) : (s.installCallback h).rxState = s.rxState := rfl
@[simp] theorem installCallback_rxBuf (h : Handle) : (s.installCallback h).rxBuf = s.rxBuf := rfl
@[simp] theorem installCallback_rxExpected (h : Handle) : (s.installCallback h).rxExpected = s.rxExpected := rfl
@[simp] theorem installCallback_cb (h : Handle) : (s.installCallback h).cb = h := rfl
@[simp] theorem installCallback_cbValid (h : Handle) : (s.installCallback h).cbValid = true := rfl
@[simp] theorem installCallback_tmrEn (h : Handle) : (s.installCallback h).tmrEn = s.tmrEn := rfl
@[simp] theorem installCallback_tmrRun (h : Handle) : (s.installCallback h).tmrRun = s.tmrRun := rfl
@[simp] theorem installCallback_tmrCnt (h : Handle) : (s.installCallback h).tmrCnt = s.tmrCnt := rfl
@[simp] theorem installCallback_cfg (h : Handle) : (s.installCallback h).cfg = s.cfg := rfl
@[simp] theorem installCallback_stream (h : Handle) : (s.installCallback h).stream = s.stream := rfl
@[simp] theorem installCallback_trace (h : Handle) : (s.installCallback h).trace = s.trace := rfl

/-! ### enableTimer -/

@[simp] theorem enableTimer_rxState : (s.enableTimer).rxState = s.rxState := rfl
@[simp] theorem enableTimer_rxBuf : (s.enableTimer).rxBuf = s.rxBuf := rfl
@[simp] theorem enableTimer_rxExpected : (s.enableTimer).rxExpected = s.rxExpected := rfl
@[simp] theorem enableTimer_cb : (s.enableTimer).cb = s.cb := rfl
@[simp] theorem enableTimer_cbValid : (s.enableTimer).cbValid = s.cbValid := rfl
@[simp] theorem enableTimer_tmrEn : (s.enableTimer).tmrEn = true := rfl
@[simp] theorem enableTimer_tmrRun : (s.enableTimer).tmrRun = s.tmrRun := rfl
@[simp] theorem enableTimer_tmrCnt : (s.enableTimer).tmrCnt = s.tmrCnt := rfl
@[simp] theorem enableTimer_cfg : (s.enableTimer).cfg = s.cfg := rfl
@[simp] theorem enableTimer_stream : (s.enableTimer).stream = s.stream := rfl
@[simp] theorem enableTimer_trace : (s.enableTimer).trace = s.trace := rfl

/-! ### disableTimerIfSticky -/

@[simp] theorem disableTimerIfSticky_rxState : (s.disableTimerIfSticky).rxState = s.rxState := rfl
@[simp] theorem disableTimerIfSticky_rxBuf : (s.disableTimerIfSticky).rxBuf = s.rxBuf := rfl
@[simp] theorem disableTimerIfSticky_rxExpected : (s.disableTimerIfSticky).rxExpected = s.rxExpected := rfl
@[simp] theorem disableTimerIfSticky_cb : (s.disableTimerIfSticky).cb = s.cb := rfl
@[simp] theorem disableTimerIfSticky_cbValid : (s.disableTimerIfSticky).cbValid = s.cbValid := rfl
@[simp] theorem disableTimerIfSticky_tmrEn : (s.disableTimerIfSticky).tmrEn = (bif s.cfg.stopSticky then false else s.tmrEn) := rfl
@[simp] theorem disableTimerIfSticky_tmrRun : (s.disableTimerIfSticky).tmrRun = s.tmrRun := rfl
@[simp] theorem disableTimerIfSticky_tmrCnt : (s.disableTimerIfSticky).tmrCnt = s.tmrCnt := rfl
@[simp] theorem disableTimerIfSticky_cfg : (s.disableTimerIfSticky).cfg = s.cfg := rfl
@[simp] theorem disableTimerIfSticky_stream : (s.disableTimerIfSticky).stream = s.stream := rfl
@[simp] theorem disableTimerIfSticky_trace : (s.disableTimerIfSticky).trace = s.trace := rfl

/-! ### stopTimer -/

@[simp] theorem stopTimer_rxState : (s.stopTimer).rxState = s.rxState := rfl
@[simp] theorem stopTimer_rxBuf : (s.stopTimer).rxBuf = s.rxBuf := rfl
@[simp] theorem stopTimer_rxExpected : (s.stopTimer).rxExpected = s.rxExpected := rfl
@[simp] theorem stopTimer_cb : (s.stopTimer).cb = s.cb := rfl
@[simp] theorem stopTimer_cbValid : (s.stopTimer).cbValid = s.cbValid := rfl
@[simp] theorem stopTimer_tmrEn : (s.stopTimer).tmrEn = s.tmrEn := rfl
@[simp] theorem stopTimer_tmrRun : (s.stopTimer).tmrRun = false := rfl
@[simp] theorem stopTimer_tmrCnt : (s.stopTimer).tmrCnt = 0 := rfl
@[simp] theorem stopTimer_cfg : (s.stopTimer).cfg = s.cfg := rfl
@[simp] theorem stopTimer_stream : (s.stopTimer).stream = s.stream := rfl
@[simp] theorem stopTimer_trace : (s.stopTimer).trace = s.trace := rfl

/-! ### restartTimer -/

@[simp] theorem restartTimer_rxState : (s.restartTimer).rxState = s.rxState := rfl
@[simp] theorem restartTimer_rxBuf : (s.restartTimer).rxBuf = s.rxBuf := rfl
@[simp] theorem restartTimer_rxExpected : (s.restartTimer).rxExpected = s.rxExpected := rfl
@[simp] theorem restartTimer_cb : (s.restartTimer).cb = s.cb := rfl
@[simp] theorem restartTimer_cbValid : (s.restartTimer).cbValid = s.cbValid := rfl
@[simp] theorem restartTimer_tmrEn : (s.restartTimer).tmrEn = s.tmrEn := rfl
@[simp] theorem restartTimer_tmrRun : (s.restartTimer).tmrRun = (bif s.tmrEn then true else s.tmrRun) := rfl
@[simp] theorem restartTimer_tmrCnt : (s.restartTimer).tmrCnt = (bif s.tmrEn then s.cfg.tInact else s.tmrCnt) := rfl
@[simp] theorem restartTimer_cfg : (s.restartTimer).cfg = s.cfg := rfl
@[simp] theorem restartTimer_stream : (s.restartTimer).stream = s.stream := rfl
@[simp] theorem restartTimer_trace : (s.restartTimer).trace = s.trace := rfl

/-! ### returnToListening -/

@[simp] theorem returnToListening_rxState : (s.returnToListening).rxState = .listening := rfl
@[simp] theorem returnToListening_rxBuf : (s.returnToListening).rxBuf = [] := rfl
@[simp] theorem returnToListening_rxExpected : (s.returnToListening).rxExpected = s.rxExpected := rfl
@[simp] theorem returnToListening_cb : (s.returnToListening).cb = s.cb := rfl
@[simp] theorem returnToListening_cbValid : (s.returnToListening).cbValid = s.cbValid := rfl
@[simp] theorem returnToListening_tmrEn : (s.returnToListening).tmrEn = s.tmrEn := rfl
@[simp] theorem returnToListening_tmrRun : (s.returnToListening).tmrRun = s.tmrRun := rfl
@[simp] theorem returnToListening_tmrCnt : (s.returnToListening).tmrCnt = s.tmrCnt := rfl
@[simp] theorem returnToListening_cfg : (s.returnToListening).cfg = s.cfg := rfl
@[simp] theorem returnToListening_stream : (s.returnToListening).stream = s.stream := rfl
@[simp] theorem returnToListening_trace : (s.returnToListening).trace = s.trace := rfl

/-! ### beginPacket -/

@[simp] theorem beginPacket_rxState (b : Byte) : (s.beginPacket b).rxState = .assembling := rfl
@[simp] theorem beginPacket_rxBuf (b : Byte) : (s.beginPacket b).rxBuf = [b] := rfl
@[simp] theorem beginPacket_rxExpected (b : Byte) : (s.beginPacket b).rxExpected = b := rfl
@[simp] theorem beginPacket_cb (b : Byte) : (s.beginPacket b).cb = s.cb := rfl
@[simp] theorem beginPacket_cbValid (b : Byte) : (s.beginPacket b).cbValid = s.cbValid := rfl
@[simp] theorem beginPacket_tmrEn (b : Byte) : (s.beginPacket b).tmrEn = s.tmrEn := rfl
@[simp] theorem beginPacket_tmrRun (b : Byte) : (s.beginPacket b).tmrRun = s.tmrRun := rfl
@[simp] theorem beginPacket_tmrCnt (b : Byte) : (s.beginPacket b).tmrCnt = s.tmrCnt := rfl
@[simp] theorem beginPacket_cfg (b : Byte) : (s.beginPacket b).cfg = s.cfg := rfl
@[simp] theorem beginPacket_stream (b : Byte) : (s.beginPacket b).stream = s.stream := rfl
@[simp] theorem beginPacket_trace (b : Byte) : (s.beginPacket b).trace = s.trace := rfl

/-! ### appendByte -/

@[simp] theorem appendByte_rxState (b : Byte) : (s.appendByte b).rxState = s.rxState := rfl
@[simp] theorem appendByte_rxBuf (b : Byte) : (s.appendByte b).rxBuf = s.rxBuf ++ [b] := rfl
@[simp] theorem appendByte_rxExpected (b : Byte) : (s.appendByte b).rxExpected = s.rxExpected := rfl
@[simp] theorem appendByte_cb (b : Byte) : (s.appendByte b).cb = s.cb := rfl
@[simp] theorem appendByte_cbValid (b : Byte) : (s.appendByte b).cbValid = s.cbValid := rfl
@[simp] theorem appendByte_tmrEn (b : Byte) : (s.appendByte b).tmrEn = s.tmrEn := rfl
@[simp] theorem appendByte_tmrRun (b : Byte) : (s.appendByte b).tmrRun = s.tmrRun := rfl
@[simp] theorem appendByte_tmrCnt (b : Byte) : (s.appendByte b).tmrCnt = s.tmrCnt := rfl
@[simp] theorem appendByte_cfg (b : Byte) : (s.appendByte b).cfg = s.cfg := rfl
@[simp] theorem appendByte_stream (b : Byte) : (s.appendByte b).stream = s.stream := rfl
@[simp] theorem appendByte_trace (b : Byte) : (s.appendByte b).trace = s.trace := rfl

/-! ### withStream -/

@[simp] theorem withStream_rxState (bs : List Byte) : (s.withStream bs).rxState = s.rxState := rfl
@[simp] theorem withStream_rxBuf (bs : List Byte) : (s.withStream bs).rxBuf = s.rxBuf := rfl
@[simp] theorem withStream_rxExpected (bs : List Byte) : (s.withStream bs).rxExpected = s.rxExpected := rfl
@[simp] theorem withStream_cb (bs : List Byte) : (s.withStream bs).cb = s.cb := rfl
@[simp] theorem withStream_cbValid (bs : List Byte) : (s.withStream bs).cbValid = s.cbValid := rfl
@[simp] theorem withStream_tmrEn (bs : List Byte) : (s.withStream bs).tmrEn = s.tmrEn := rfl
@[simp] theorem withStream_tmrRun (bs : List Byte) : (s.withStream bs).tmrRun = s.tmrRun := rfl
@[simp] theorem withStream_tmrCnt (bs : List Byte) : (s.withStream bs).tmrCnt = s.tmrCnt := rfl
@[simp] theorem withStream_cfg (bs : List Byte) : (s.withStream bs).cfg = s.cfg := rfl
@[simp] theorem withStream_stream (bs : List Byte) : (s.withStream bs).stream = bs := rfl
@[simp] theorem withStream_trace (bs : List Byte) : (s.withStream bs).trace = s.trace := rfl

/-! ### forgetCount -/

@[simp] theorem forgetCount_rxState : (s.forgetCount).rxState = s.rxState := rfl
@[simp] theorem forgetCount_rxBuf : (s.forgetCount).rxBuf = s.rxBuf := rfl
@[simp] theorem forgetCount_rxExpected : (s.forgetCount).rxExpected = s.rxExpected := rfl
@[simp] theorem forgetCount_cb : (s.forgetCount).cb = s.cb := rfl
@[simp] theorem forgetCount_cbValid : (s.forgetCount).cbValid = s.cbValid := rfl
@[simp] theorem forgetCount_tmrEn : (s.forgetCount).tmrEn = s.tmrEn := rfl
@[simp] theorem forgetCount_tmrRun : (s.forgetCount).tmrRun = s.tmrRun := rfl
@[simp] theorem forgetCount_tmrCnt : (s.forgetCount).tmrCnt = 0 := rfl
@[simp] theorem forgetCount_cfg : (s.forgetCount).cfg = s.cfg := rfl
@[simp] theorem forgetCount_stream : (s.forgetCount).stream = s.stream := rfl
@[simp] theorem forgetCount_trace : (s.forgetCount).trace = s.trace := rfl

end Sys2Proof.Machine
end

