-- ==== Sys2Proof/Laws/Ops.lean ====
section
/-! SUPPORT. What the shared operations can do, said once: delivery, the four conditions, the guard. -/

namespace Sys2Proof.Machine

variable (s : State)

/-- `deliver` as one record: only the trace can grow, by one `DELIVER`, and only if a callback is
installed. -/
theorem deliver_eq (p : List Byte) :
    s.deliver p = { s with trace := s.trace ++ if s.cbValid then [.deliver s.cb p] else [] } := by
  unfold State.deliver State.emit
  split <;> simp

@[simp] theorem deliver_rxState (p : List Byte) : (s.deliver p).rxState = s.rxState := by simp [deliver_eq]
@[simp] theorem deliver_rxBuf (p : List Byte) : (s.deliver p).rxBuf = s.rxBuf := by simp [deliver_eq]
@[simp] theorem deliver_rxExpected (p : List Byte) : (s.deliver p).rxExpected = s.rxExpected := by simp [deliver_eq]
@[simp] theorem deliver_cb (p : List Byte) : (s.deliver p).cb = s.cb := by simp [deliver_eq]
@[simp] theorem deliver_cbValid (p : List Byte) : (s.deliver p).cbValid = s.cbValid := by simp [deliver_eq]
@[simp] theorem deliver_tmrEn (p : List Byte) : (s.deliver p).tmrEn = s.tmrEn := by simp [deliver_eq]
@[simp] theorem deliver_tmrRun (p : List Byte) : (s.deliver p).tmrRun = s.tmrRun := by simp [deliver_eq]
@[simp] theorem deliver_tmrCnt (p : List Byte) : (s.deliver p).tmrCnt = s.tmrCnt := by simp [deliver_eq]
@[simp] theorem deliver_cfg (p : List Byte) : (s.deliver p).cfg = s.cfg := by simp [deliver_eq]
@[simp] theorem deliver_stream (p : List Byte) : (s.deliver p).stream = s.stream := by simp [deliver_eq]

@[simp] theorem take_invalidArgument :
    s.take .invalidArgument = s.emit (.retFrame .invalidArgument) := rfl
@[simp] theorem take_noiseDrop : s.take .noiseDrop = s := rfl
@[simp] theorem take_crcDrop : s.take .crcDrop = s.returnToListening := rfl
@[simp] theorem take_timeout : s.take .timeout = s.stopTimer.returnToListening := rfl

variable {s}

/-- The guard lets an effect happen exactly in the states of R22. -/
theorem onLegal_eq_next_iff {effect : State → State} {t : State} :
    onLegal s effect = .next t ↔ s.Legal ∧ effect s = t := by
  unfold onLegal
  split <;> rename_i h
  · rw [Host.Outcome.next.injEq]
    exact ⟨fun e => ⟨h, e⟩, And.right⟩
  · exact ⟨fun e => by simp at e, fun e => absurd e.1 h⟩

theorem onLegal_of_legal (h : s.Legal) (effect : State → State) :
    onLegal s effect = .next (effect s) := if_pos h

theorem onLegal_of_not_legal (h : ¬ s.Legal) (effect : State → State) :
    onLegal s effect = .refused .outsideInvariants := if_neg h

end Sys2Proof.Machine
end

