-- ==== Sys2Proof/Laws/Framer.lean ====
section
/-! SUPPORT. What `FRAME` and `CRC.COMPUTE` can do, said once. -/

namespace Sys2Proof.Machine

variable (s : State)

@[simp] theorem packet_length (payload : List Byte) : (packet payload).length = payload.length + 5 := by
  simp [packet]

theorem payloadLegal_iff (payload : List Byte) :
    PayloadLegal payload ↔ 1 ≤ payload.length ∧ payload.length ≤ 250 := Iff.rfl

/-- A legal payload is sent, whole and once, and reported. -/
theorem frame_of_legal {payload : List Byte} (h : PayloadLegal payload) :
    s.frame payload = { s with trace := s.trace ++ [.tx (packet payload), .retFrame .ok] } := by
  unfold State.frame
  rw [if_pos h]
  simp [State.emit]

/-- Any other payload is rejected: one report, nothing else. -/
theorem frame_of_not_legal {payload : List Byte} (h : ¬ PayloadLegal payload) :
    s.frame payload = { s with trace := s.trace ++ [.retFrame .invalidArgument] } := by
  unfold State.frame
  rw [if_neg h]
  rfl

theorem crcCompute_state (bytes : List Byte) :
    s.crcCompute bytes = { s with trace := s.trace ++ [.retCrc (crcCompute bytes)] } := rfl

end Sys2Proof.Machine
end

