-- ==== Sys2Proof/Laws/Instances.lean ====
section
/-! SUPPORT. Instances share nothing (10_state.md R26). -/

namespace Sys2Proof.Machine

/-- An operation on one instance leaves every other instance as it was. -/
theorem execAt_other {sys sys' : List State} {k : Fin sys.length} {i : Instr}
    (h : execAt sys k i = .next sys') (j : Nat) (hj : j ≠ k) : sys'[j]? = sys[j]? := by
  unfold execAt at h
  split at h
  · cases h
    exact List.getElem?_set_ne (Ne.symm hj)
  · cases h
  · cases h

/-- The instance addressed does what it would do alone. -/
theorem execAt_self {sys sys' : List State} {k : Fin sys.length} {i : Instr}
    (h : execAt sys k i = .next sys') : ∃ t, exec i sys[k] = .next t ∧ sys'[k.val]? = some t := by
  unfold execAt at h
  split at h
  · rename_i t ht
    cases h
    exact ⟨t, ht, by simp⟩
  · cases h
  · cases h

end Sys2Proof.Machine
end

