-- ==== Sys2Proof/Laws/Receiver.lean ====
section
/-! SUPPORT. What a received byte can do, said once, and chunks. -/

namespace Sys2Proof.Machine

variable {s : State} {b : Byte}

/-- Completion as one record: the buffer is cleared and the state is `Listening` whether or not the
checksum matched, and one `DELIVER` is emitted exactly on a match with a callback installed. -/
theorem complete_eq (s : State) :
    s.complete = { s with
      rxState := .listening
      rxBuf := []
      trace := s.trace ++
        if checksumMatches s.rxBuf s.rxExpected.toNat = true ∧ s.cbValid = true then
          [.deliver s.cb (payloadOf s.rxBuf s.rxExpected.toNat)]
        else [] } := by
  unfold State.complete
  split <;> rename_i h
  · simp [deliver_eq, State.returnToListening, h]
  · simp [State.returnToListening, h]

/-! ### The four cases of a byte (R155) -/

/-- Noise: nothing changes. -/
theorem acceptByte_noise (hl : s.rxState = .listening) (hb : b.toNat < lenMin) : s.acceptByte b = s := by
  simp [State.acceptByte, hl, hb]

/-- A legal length byte begins a packet. -/
theorem acceptByte_begin (hl : s.rxState = .listening) (hb : ¬ b.toNat < lenMin) :
    s.acceptByte b = s.beginPacket b := by
  simp [State.acceptByte, hl, hb]

/-- A byte that does not complete the packet is appended. -/
theorem acceptByte_append (ha : s.rxState = .assembling)
    (hb : s.rxBuf.length + 1 ≠ s.rxExpected.toNat) : s.acceptByte b = s.appendByte b := by
  simp [State.acceptByte, ha, hb]

/-- The byte that reaches the declared length completes the packet. -/
theorem acceptByte_complete (ha : s.rxState = .assembling)
    (hb : s.rxBuf.length + 1 = s.rxExpected.toNat) :
    s.acceptByte b = (s.appendByte b).complete := by
  simp [State.acceptByte, ha, hb]

/-- Every byte falls under one of the four cases. -/
theorem acceptByte_cases (s : State) (b : Byte) :
    (s.rxState = .listening ∧ b.toNat < lenMin ∧ s.acceptByte b = s) ∨
    (s.rxState = .listening ∧ ¬ b.toNat < lenMin ∧ s.acceptByte b = s.beginPacket b) ∨
    (s.rxState = .assembling ∧ s.rxBuf.length + 1 ≠ s.rxExpected.toNat ∧
      s.acceptByte b = s.appendByte b) ∨
    (s.rxState = .assembling ∧ s.rxBuf.length + 1 = s.rxExpected.toNat ∧
      s.acceptByte b = (s.appendByte b).complete) := by
  cases hs : s.rxState with
  | listening =>
    by_cases hb : b.toNat < lenMin
    · exact .inl ⟨rfl, hb, acceptByte_noise hs hb⟩
    · exact .inr (.inl ⟨rfl, hb, acceptByte_begin hs hb⟩)
  | assembling =>
    by_cases hb : s.rxBuf.length + 1 = s.rxExpected.toNat
    · exact .inr (.inr (.inr ⟨rfl, hb, acceptByte_complete hs hb⟩))
    · exact .inr (.inr (.inl ⟨rfl, hb, acceptByte_append hs hb⟩))

/-! ### What a byte leaves alone -/

@[simp] theorem acceptByte_cb (s : State) (b : Byte) : (s.acceptByte b).cb = s.cb := by
  obtain ⟨-, -, h⟩ | ⟨-, -, h⟩ | ⟨-, -, h⟩ | ⟨-, -, h⟩ := acceptByte_cases s b <;> simp [h, complete_eq]

@[simp] theorem rxByte_cb (s : State) (b : Byte) : (s.rxByte b).cb = s.cb := by simp [State.rxByte]

@[simp] theorem rxChunk_cb (bs : List Byte) (s : State) : (s.rxChunk bs).cb = s.cb := by
  induction bs generalizing s with
  | nil => rfl
  | cons b bs ih => simp [State.rxChunk, ih]

@[simp] theorem acceptByte_cbValid (s : State) (b : Byte) : (s.acceptByte b).cbValid = s.cbValid := by
  obtain ⟨-, -, h⟩ | ⟨-, -, h⟩ | ⟨-, -, h⟩ | ⟨-, -, h⟩ := acceptByte_cases s b <;> simp [h, complete_eq]

@[simp] theorem rxByte_cbValid (s : State) (b : Byte) : (s.rxByte b).cbValid = s.cbValid := by simp [State.rxByte]

@[simp] theorem rxChunk_cbValid (bs : List Byte) (s : State) : (s.rxChunk bs).cbValid = s.cbValid := by
  induction bs generalizing s with
  | nil => rfl
  | cons b bs ih => simp [State.rxChunk, ih]

@[simp] theorem acceptByte_tmrEn (s : State) (b : Byte) : (s.acceptByte b).tmrEn = s.tmrEn := by
  obtain ⟨-, -, h⟩ | ⟨-, -, h⟩ | ⟨-, -, h⟩ | ⟨-, -, h⟩ := acceptByte_cases s b <;> simp [h, complete_eq]

@[simp] theorem rxByte_tmrEn (s : State) (b : Byte) : (s.rxByte b).tmrEn = s.tmrEn := by simp [State.rxByte]

@[simp] theorem rxChunk_tmrEn (bs : List Byte) (s : State) : (s.rxChunk bs).tmrEn = s.tmrEn := by
  induction bs generalizing s with
  | nil => rfl
  | cons b bs ih => simp [State.rxChunk, ih]

@[simp] theorem acceptByte_cfg (s : State) (b : Byte) : (s.acceptByte b).cfg = s.cfg := by
  obtain ⟨-, -, h⟩ | ⟨-, -, h⟩ | ⟨-, -, h⟩ | ⟨-, -, h⟩ := acceptByte_cases s b <;> simp [h, complete_eq]

@[simp] theorem rxByte_cfg (s : State) (b : Byte) : (s.rxByte b).cfg = s.cfg := by simp [State.rxByte]

@[simp] theorem rxChunk_cfg (bs : List Byte) (s : State) : (s.rxChunk bs).cfg = s.cfg := by
  induction bs generalizing s with
  | nil => rfl
  | cons b bs ih => simp [State.rxChunk, ih]

@[simp] theorem acceptByte_stream (s : State) (b : Byte) : (s.acceptByte b).stream = s.stream := by
  obtain ⟨-, -, h⟩ | ⟨-, -, h⟩ | ⟨-, -, h⟩ | ⟨-, -, h⟩ := acceptByte_cases s b <;> simp [h, complete_eq]

@[simp] theorem rxByte_stream (s : State) (b : Byte) : (s.rxByte b).stream = s.stream := by simp [State.rxByte]

@[simp] theorem rxChunk_stream (bs : List Byte) (s : State) : (s.rxChunk bs).stream = s.stream := by
  induction bs generalizing s with
  | nil => rfl
  | cons b bs ih => simp [State.rxChunk, ih]

/-- The timer fields do not steer a byte, and a byte does not write them before the restart. -/
@[simp] theorem acceptByte_tmrRun (s : State) (b : Byte) : (s.acceptByte b).tmrRun = s.tmrRun := by
  obtain ⟨-, -, h⟩ | ⟨-, -, h⟩ | ⟨-, -, h⟩ | ⟨-, -, h⟩ := acceptByte_cases s b <;> simp [h, complete_eq]

@[simp] theorem acceptByte_tmrCnt (s : State) (b : Byte) : (s.acceptByte b).tmrCnt = s.tmrCnt := by
  obtain ⟨-, -, h⟩ | ⟨-, -, h⟩ | ⟨-, -, h⟩ | ⟨-, -, h⟩ := acceptByte_cases s b <;> simp [h, complete_eq]

/-- Every byte restarts an enabled timer (R151). -/
@[simp] theorem rxByte_tmrRun (s : State) (b : Byte) :
    (s.rxByte b).tmrRun = (s.tmrEn || s.tmrRun) := by simp [State.rxByte]

@[simp] theorem rxByte_tmrCnt (s : State) (b : Byte) :
    (s.rxByte b).tmrCnt = bif s.tmrEn then s.cfg.tInact else s.tmrCnt := by simp [State.rxByte]

/-! ### Chunks -/

@[simp] theorem rxChunk_nil (s : State) : s.rxChunk [] = s := rfl

@[simp] theorem rxChunk_cons (b : Byte) (bs : List Byte) (s : State) :
    s.rxChunk (b :: bs) = (s.rxByte b).rxChunk bs := rfl

/-- A chunk may be cut anywhere (R153). -/
theorem rxChunk_append (bs cs : List Byte) (s : State) :
    s.rxChunk (bs ++ cs) = (s.rxChunk bs).rxChunk cs := by
  induction bs generalizing s with
  | nil => rfl
  | cons b bs ih => simp [ih]

end Sys2Proof.Machine
end

