-- ==== Sys2Proof/Laws/Timer.lean ====
section
/-! SUPPORT. What ticks can do, said once. -/

namespace Sys2Proof.Machine

variable {s : State}

/-- A tick of a stopped timer does nothing (R17). -/
theorem tick_stopped (h : s.tmrRun = false) : s.tick = s := by simp [State.tick, h]

/-- A tick that does not bring the count to 0 changes the count only. -/
theorem tick_running (h : s.tmrRun = true) (hc : 2 ≤ s.tmrCnt) :
    s.tick = { s with tmrCnt := s.tmrCnt - 1 } := by
  have : s.tmrCnt - 1 ≠ 0 := by omega
  simp [State.tick, h, this]

/-- The tick that brings the count to 0 is the `TIMEOUT` (R181, R182). -/
theorem tick_expiring (h : s.tmrRun = true) (hc : s.tmrCnt ≤ 1) :
    s.tick = s.stopTimer.returnToListening := by
  have : s.tmrCnt - 1 = 0 := by omega
  simp only [State.tick, h, this, if_true]
  rfl

/-- Passing over the ticks of a stopped timer is issuing them: `TICKS n` is `n` times `TICK` (R186). -/
theorem ticks_eq_iterate (n : Nat) (s : State) : s.ticks n = State.tick^[n] s := by
  induction n generalizing s with
  | zero => rfl
  | succ n ih =>
    rw [Function.iterate_succ_apply, State.ticks]
    split <;> rename_i h
    · exact ih _
    · have h := tick_stopped (Bool.eq_false_iff.2 h)
      rw [h, Function.iterate_fixed h]

/-- Ticks of a stopped timer do nothing. -/
theorem ticks_stopped (h : s.tmrRun = false) (n : Nat) : s.ticks n = s := by
  cases n <;> simp [State.ticks, h]

/-- Fewer ticks than the count only count down. -/
theorem ticks_before_expiry (h : s.tmrRun = true) (n : Nat) (hn : n < s.tmrCnt) :
    s.ticks n = { s with tmrCnt := s.tmrCnt - n } := by
  induction n generalizing s with
  | zero => rfl
  | succ n ih =>
    rw [State.ticks, if_pos h, tick_running h (by omega),
      ih (s := { s with tmrCnt := s.tmrCnt - 1 }) h (by show n < s.tmrCnt - 1; omega)]
    simp [Nat.sub_sub, Nat.add_comm]

/-- As many ticks as the count, or more, end in the `TIMEOUT` (R190, R185). -/
theorem ticks_expiry (h : s.tmrRun = true) (hc : 1 ≤ s.tmrCnt) (n : Nat) (hn : s.tmrCnt ≤ n) :
    s.ticks n = s.stopTimer.returnToListening := by
  induction n generalizing s with
  | zero => omega
  | succ n ih =>
    rw [State.ticks, if_pos h]
    by_cases h2 : 2 ≤ s.tmrCnt
    · rw [tick_running h h2, ih (s := { s with tmrCnt := s.tmrCnt - 1 }) h
        (by show 1 ≤ s.tmrCnt - 1; omega) (by show s.tmrCnt - 1 ≤ n; omega)]
      rfl
    · rw [tick_expiring h (by omega)]
      exact ticks_stopped rfl n

/-! ### What ticks leave alone -/

@[simp] theorem tick_rxExpected (s : State) : s.tick.rxExpected = s.rxExpected := by
  unfold State.tick
  split
  · dsimp only
    split <;> rfl
  · rfl

@[simp] theorem ticks_rxExpected (n : Nat) (s : State) : (s.ticks n).rxExpected = s.rxExpected := by
  induction n generalizing s with
  | zero => rfl
  | succ n ih =>
    unfold State.ticks
    split
    · rw [ih, tick_rxExpected]
    · rfl

@[simp] theorem tick_cb (s : State) : s.tick.cb = s.cb := by
  unfold State.tick
  split
  · dsimp only
    split <;> rfl
  · rfl

@[simp] theorem ticks_cb (n : Nat) (s : State) : (s.ticks n).cb = s.cb := by
  induction n generalizing s with
  | zero => rfl
  | succ n ih =>
    unfold State.ticks
    split
    · rw [ih, tick_cb]
    · rfl

@[simp] theorem tick_cbValid (s : State) : s.tick.cbValid = s.cbValid := by
  unfold State.tick
  split
  · dsimp only
    split <;> rfl
  · rfl

@[simp] theorem ticks_cbValid (n : Nat) (s : State) : (s.ticks n).cbValid = s.cbValid := by
  induction n generalizing s with
  | zero => rfl
  | succ n ih =>
    unfold State.ticks
    split
    · rw [ih, tick_cbValid]
    · rfl

@[simp] theorem tick_tmrEn (s : State) : s.tick.tmrEn = s.tmrEn := by
  unfold State.tick
  split
  · dsimp only
    split <;> rfl
  · rfl

@[simp] theorem ticks_tmrEn (n : Nat) (s : State) : (s.ticks n).tmrEn = s.tmrEn := by
  induction n generalizing s with
  | zero => rfl
  | succ n ih =>
    unfold State.ticks
    split
    · rw [ih, tick_tmrEn]
    · rfl

@[simp] theorem tick_cfg (s : State) : s.tick.cfg = s.cfg := by
  unfold State.tick
  split
  · dsimp only
    split <;> rfl
  · rfl

@[simp] theorem ticks_cfg (n : Nat) (s : State) : (s.ticks n).cfg = s.cfg := by
  induction n generalizing s with
  | zero => rfl
  | succ n ih =>
    unfold State.ticks
    split
    · rw [ih, tick_cfg]
    · rfl

@[simp] theorem tick_stream (s : State) : s.tick.stream = s.stream := by
  unfold State.tick
  split
  · dsimp only
    split <;> rfl
  · rfl

@[simp] theorem ticks_stream (n : Nat) (s : State) : (s.ticks n).stream = s.stream := by
  induction n generalizing s with
  | zero => rfl
  | succ n ih =>
    unfold State.ticks
    split
    · rw [ih, tick_stream]
    · rfl

@[simp] theorem tick_trace (s : State) : s.tick.trace = s.trace := by
  unfold State.tick
  split
  · dsimp only
    split <;> rfl
  · rfl

@[simp] theorem ticks_trace (n : Nat) (s : State) : (s.ticks n).trace = s.trace := by
  induction n generalizing s with
  | zero => rfl
  | succ n ih =>
    unfold State.ticks
    split
    · rw [ih, tick_trace]
    · rfl

end Sys2Proof.Machine
end

