-- ==== Sys2Proof/Laws/Legal.lean ====
section
/-! SUPPORT. Every operation keeps the invariants of R22, one lemma per operation. -/

namespace Sys2Proof.Machine

variable {s : State}

/-- Only the eight elements of the summary table and the configuration decide whether a state is legal:
appending an event or moving the stream does not. -/
theorem legal_emit (e : Event) : (s.emit e).Legal ↔ s.Legal := Iff.rfl

theorem legal_withStream (bs : List Byte) : (s.withStream bs).Legal ↔ s.Legal := Iff.rfl

/-- A receiver at rest: `Listening`, empty buffer, timer stopped. -/
theorem legal_idle (hs : s.rxState = .listening) (hb : s.rxBuf = []) (hr : s.tmrRun = false)
    (hc : s.tmrCnt = 0) (hcfg : s.cfg.Legal) : s.Legal :=
  ⟨fun _ => hb, fun hf => by simp [hs] at hf, by simp [hb, rxBufCap],
    ⟨fun hf => by simp [hr] at hf, fun _ => hc⟩, fun hf => by simp [hr] at hf, hcfg⟩

theorem legal_resetWith (c : Config) (h : c.Legal) : (State.resetWith c).Legal := by
  exact legal_idle rfl rfl rfl rfl h

theorem legal_crcCompute (bytes : List Byte) (h : s.Legal) : (s.crcCompute bytes).Legal := h

theorem legal_frame (payload : List Byte) (h : s.Legal) : (s.frame payload).Legal := by
  unfold State.frame
  split
  · exact h
  · exact h

theorem legal_listen (handle : Handle) (h : s.Legal) : (s.listen handle).Legal := by
  exact legal_idle rfl rfl rfl rfl h.2.2.2.2.2

theorem legal_stop (h : s.Legal) : s.stop.Legal := by
  obtain ⟨ha, hb, hc, -, -, hcfg⟩ := h
  exact ⟨ha, hb, hc, by simp [State.TimerInRange, State.stop],
    by simp [State.RunningIsEnabled, State.stop], hcfg⟩

/-- The expiry action from any state whose configuration is legal. -/
theorem legal_timeout (h : s.Legal) : s.stopTimer.returnToListening.Legal := by
  exact legal_idle rfl rfl rfl rfl h.2.2.2.2.2

theorem legal_tick (h : s.Legal) : s.tick.Legal := by
  cases hr : s.tmrRun with
  | false => rwa [tick_stopped hr]
  | true =>
    by_cases hc : 2 ≤ s.tmrCnt
    · rw [tick_running hr hc]
      obtain ⟨ha, hb, hcap, ⟨hd, -⟩, he, hcfg⟩ := h
      have := hd hr
      refine ⟨ha, hb, hcap, ⟨fun _ => ⟨?_, ?_⟩, fun hf => ?_⟩, he, hcfg⟩
      · show 1 ≤ s.tmrCnt - 1
        omega
      · show s.tmrCnt - 1 ≤ s.cfg.tInact
        omega
      · rw [show s.tmrRun = false from hf] at hr
        cases hr
    · rw [tick_expiring hr (by omega)]
      exact legal_timeout h

theorem legal_ticks (n : Nat) (h : s.Legal) : (s.ticks n).Legal := by
  induction n generalizing s with
  | zero => exact h
  | succ n ih =>
    unfold State.ticks
    split
    · exact ih (legal_tick h)
    · exact h

theorem legal_complete (h : s.cfg.Legal ∧ s.TimerInRange ∧ s.RunningIsEnabled) : s.complete.Legal := by
  obtain ⟨hcfg, hd, he⟩ := h
  rw [complete_eq]
  exact ⟨fun _ => rfl, fun hf => by simp at hf, by simp [rxBufCap], hd, he, hcfg⟩

theorem legal_acceptByte (b : Byte) (h : s.Legal) : (s.acceptByte b).Legal := by
  obtain ⟨-, -, e⟩ | ⟨-, hb, e⟩ | ⟨ha, hne, e⟩ | ⟨-, -, e⟩ := acceptByte_cases s b
  · rwa [e]
  · obtain ⟨-, -, -, hd, he, hcfg⟩ := h
    have hmax : b.toNat < 256 := b.isLt
    rw [e]
    refine ⟨fun hf => by simp at hf, fun _ => ?_, by simp [rxBufCap], hd, he, hcfg⟩
    simp only [lenMin] at hb
    simp [lenMin, lenMax]
    omega
  · obtain ⟨-, hshape, hcap, hd, he, hcfg⟩ := h
    obtain ⟨h1, h2, h3, h4, h5⟩ := hshape ha
    rw [e]
    refine ⟨fun hf => by simp [ha] at hf, fun _ => ?_, ?_, hd, he, hcfg⟩
    · rw [appendByte_rxBuf, appendByte_rxExpected, List.length_append, List.length_singleton]
      refine ⟨by omega, by omega, ?_, h4, h5⟩
      cases hbuf : s.rxBuf with
      | nil => simp [hbuf] at h1
      | cons x xs => simpa [hbuf] using h3
    · show (s.rxBuf ++ [b]).length + 1 ≤ 255
      rw [List.length_append, List.length_singleton]
      have : lenMax = 255 := rfl
      omega
  · obtain ⟨-, -, -, hd, he, hcfg⟩ := h
    rw [e]
    exact legal_complete ⟨hcfg, hd, he⟩

theorem legal_restartTimer (h : s.Legal) : s.restartTimer.Legal := by
  obtain ⟨ha, hb, hc, hd, he, hcfg⟩ := h
  refine ⟨ha, hb, hc, ?_, ?_, hcfg⟩
  · cases hen : s.tmrEn with
    | false => simpa [State.TimerInRange, hen] using hd
    | true => simpa [State.TimerInRange, hen] using hcfg
  · cases hen : s.tmrEn with
    | false => simpa [State.RunningIsEnabled, hen] using he
    | true => simp [State.RunningIsEnabled, hen]

theorem legal_rxByte (b : Byte) (h : s.Legal) : (s.rxByte b).Legal :=
  legal_restartTimer (legal_acceptByte b h)

theorem legal_rxChunk (bs : List Byte) (h : s.Legal) : (s.rxChunk bs).Legal := by
  induction bs generalizing s with
  | nil => exact h
  | cons b bs ih => exact ih (legal_rxByte b h)

end Sys2Proof.Machine
end

