-- ==== Sys2Proof/Laws/PerInstr.lean ====
section
/-! SUPPORT. Statements about every operation as syntax, one lemma per constructor. -/

namespace Sys2Proof

/-- The encoder writes as many bytes as the column `length_bytes` of the opcode table says: 1, 2, 3 or
3 + n (R79). -/
def Laws.EncodedLength.Statement (i : Instr) : Prop :=
  i.wellFormed = true → spelledLength (encode i) = (encode i).length

/-- The length of a counted string, from its two count bytes. -/
theorem Laws.countBytes_value {n : Nat} (h : n < countBound) :
    (BitVec.ofNat 8 n).toNat + 256 * (BitVec.ofNat 8 (n / 256)).toNat = n := by
  simp [countBound] at *
  omega

theorem Laws.EncodedLength.crcCompute (bytes : List Byte) : Statement (.crcCompute bytes) := fun h => by
  have := Laws.countBytes_value (n := bytes.length) (by simpa [Instr.wellFormed] using h)
  simp [encode, Instr.op, Instr.operandBytes, countBytes, spelledLength, Op.format] at *
  omega

theorem Laws.EncodedLength.frame (payload : List Byte) : Statement (.frame payload) := fun h => by
  have := Laws.countBytes_value (n := payload.length) (by simpa [Instr.wellFormed] using h)
  simp [encode, Instr.op, Instr.operandBytes, countBytes, spelledLength, Op.format] at *
  omega

theorem Laws.EncodedLength.listen (handle : Handle) : Statement (.listen handle) := fun _ => rfl

theorem Laws.EncodedLength.stop : Statement .stop := fun _ => rfl

theorem Laws.EncodedLength.rxb (b : Byte) : Statement (.rxb b) := fun _ => rfl

theorem Laws.EncodedLength.rxchunk (bytes : List Byte) : Statement (.rxchunk bytes) := fun h => by
  have := Laws.countBytes_value (n := bytes.length) (by simpa [Instr.wellFormed] using h)
  simp [encode, Instr.op, Instr.operandBytes, countBytes, spelledLength, Op.format] at *
  omega

theorem Laws.EncodedLength.tick : Statement .tick := fun _ => rfl

theorem Laws.EncodedLength.ticks (n : Nat) : Statement (.ticks n) := fun _ => rfl

end Sys2Proof
end

