-- ==== Sys2Proof/Tests/Slice0.lean ====
section
/-! SUPPORT. The model's own tests, expected values from spec/ (30_encoding.md R79 and 95_test_vectors.md),
and one witness for the hypotheses of each statement, at the edges of its ranges. -/

namespace Sys2Proof.Machine.Tests

/-! ### Well-formedness: an ill-formed term for each check -/

theorem test_crcCompute_too_long : Instr.wellFormed (.crcCompute (List.replicate 65536 0)) = false := by
  rw [Instr.wellFormed, List.length_replicate]; decide

theorem test_frame_too_long : Instr.wellFormed (.frame (List.replicate 65536 0)) = false := by
  rw [Instr.wellFormed, List.length_replicate]; decide

theorem test_rxchunk_too_long : Instr.wellFormed (.rxchunk (List.replicate 65536 0)) = false := by
  rw [Instr.wellFormed, List.length_replicate]; decide

theorem test_ticks_too_many : Instr.wellFormed (.ticks 65536) = false := by decide

theorem test_ticks_most : Instr.wellFormed (.ticks 65535) = true := by decide

/-! ### Decoding: words written out from the tables of R79 -/

/-- Format S: selector 0x01, count 0x0002 low byte first, two data bytes, then another operation. -/
theorem test_decode_crcCompute :
    decode [0x01, 0x02, 0x00, 0x06, 0x01, 0x04] = .ok (.crcCompute [0x06, 0x01], [0x04]) := by rfl

/-- Format S, program P5: `FRAME 5A`. -/
theorem test_decode_frame : decode [0x02, 0x01, 0x00, 0x5A] = .ok (.frame [0x5A], []) := by rfl

/-- Format B, program P1: `LISTEN 1`. -/
theorem test_decode_listen : decode [0x03, 0x01] = .ok (.listen 0x01, []) := by rfl

/-- Format N: no operand is taken from the stream. -/
theorem test_decode_stop : decode [0x04, 0x08] = .ok (.stop, [0x08]) := by rfl

/-- Format B, program P2: `RXB 03`. -/
theorem test_decode_rxb : decode [0x05, 0x03, 0x06] = .ok (.rxb 0x03, [0x06]) := by rfl

/-- Format S, program P1. -/
theorem test_decode_rxchunk :
    decode [0x06, 0x06, 0x00, 0x06, 0x01, 0x15, 0x51, 0x9B, 0x0F] =
      .ok (.rxchunk [0x06, 0x01, 0x15, 0x51, 0x9B, 0x0F], []) := by rfl

/-- Format N. -/
theorem test_decode_tick : decode [0x07] = .ok (.tick, []) := by rfl

/-- Format W, program P4: `TICKS 2000` is `08 D0 07`. -/
theorem test_decode_ticks : decode [0x08, 0xD0, 0x07] = .ok (.ticks 2000, []) := by rfl

/-- Selector 0x09 is reserved (R79, R80). -/
theorem test_decode_reserved : decode [0x09, 0x00] = .error (.reservedSelector 0x09) := by rfl

/-- A chunk of two bytes of which one is there is no operation (R80). -/
theorem test_decode_truncated : decode [0x06, 0x02, 0x00, 0xAA] = .error (.truncatedOperand .rxchunk) := by
  rfl

/-- A table word of one byte: the operand bytes it does not give are zero. -/
theorem test_decodeTableWord_ticks : decodeTableWord 8 0x08 = some (.ticks 0) := by rfl

/-- A table word of three bytes, the second byte in bits 15 to 8. -/
theorem test_decodeTableWord_ticks_1000 : decodeTableWord 24 0x03E808 = some (.ticks 1000) := by rfl

/-- The operation a table word places is the one the next step runs. -/
theorem test_withFetchWord_listen :
    step (State.reset.withFetchWord 16 0x0703) = exec (.listen 0x07) State.reset := by rfl

/-! ### Small states -/

/-- The state after an operation, if it answered one. -/
def after (o : Host.Outcome State Fault Refusal) : Option State :=
  match o with
  | .next s => some s
  | .fault _ => none
  | .refused _ => none

/-- After `LISTEN 1` from reset, with T_INACT = 1000: the start state of 95_test_vectors.md section 4. -/
def listening : State := State.reset.listen 0x01

/-- In `Assembling` with these bytes buffered, after `LISTEN 1`, its timer about to expire in `n` ticks. -/
def assembling (buf : List Byte) (expected : Byte) (n : Nat) : State :=
  { listening with rxState := .assembling, rxBuf := buf, rxExpected := expected, tmrRun := true, tmrCnt := n }

/-! ### One step each, expected values from 95_test_vectors.md -/

/-- Section 2.1: the top bit alone gives POLY. -/
theorem test_crcBit_top : crcBit 0x80000000 = 0x04C11DB7 := by decide

/-- Section 2.3: one left-over byte is padded after the data (C1). -/
theorem test_crcCompute_AB :
    (after (exec (.crcCompute [0xAB]) State.reset)).map State.trace = some [.retCrc 0x1D604014] := by decide

/-- Section 2.3: two words, the second padded. -/
theorem test_crcCompute_two_words : crcCompute [0x01, 0x02, 0x03, 0x04, 0x05] = 0xBA237BE3 := by decide

/-- Section 3: `FRAME 01`. -/
theorem test_frame_01 : (after (exec (.frame [0x01]) State.reset)).map State.trace =
    some [.tx [0x06, 0x01, 0x15, 0x51, 0x9B, 0x0F], .retFrame .ok] := by decide

/-- Section 3: the empty payload is rejected. -/
theorem test_frame_empty : (after (exec (.frame []) State.reset)).map State.trace =
    some [.retFrame .invalidArgument] := by decide

/-- R140's worked example: a partial packet and a running timer are discarded, the handle installed. -/
theorem test_listen : (after (exec (.listen 0x07) (assembling [0x08, 0x10] 0x08 400))).map
    (fun s => (s.rxState, s.rxBuf, s.cb, s.tmrRun, s.tmrCnt)) =
      some (.listening, [], 0x07, false, 0) := by decide

/-- R141's worked example: `STOP` leaves the partial packet. -/
theorem test_stop : (after (exec .stop (assembling [0x06] 0x06 1000))).map
    (fun s => (s.rxState, s.rxBuf, s.tmrEn, s.tmrRun, s.tmrCnt)) =
      some (.assembling, [0x06], false, false, 0) := by decide

/-- R141's worked example with `P_STOP_STICKY` false: `tmr_en` stays 1. -/
theorem test_stop_not_sticky :
    (after (exec .stop { assembling [0x06] 0x06 1000 with cfg := ⟨1000, false⟩ })).map
      (fun s => (s.tmrEn, s.tmrRun)) = some (true, false) := by decide

/-- Section 4.1: 5 is noise and starts the timer. -/
theorem test_rxb_noise : (after (exec (.rxb 0x05) listening)).map
    (fun s => (s.rxState, s.rxBuf, s.tmrRun, s.tmrCnt)) = some (.listening, [], true, 1000) := by decide

/-- Section 4.2: the byte that completes `06 01 15 51 9B 0F` delivers `01`. -/
theorem test_rxb_completes : (after (exec (.rxb 0x0F) (assembling [0x06, 0x01, 0x15, 0x51, 0x9B] 0x06 1))).map
    (fun s => (s.rxState, s.rxBuf, s.rxExpected, s.trace)) =
      some (.listening, [], 0x06, [.deliver 0x01 [0x01]]) := by decide

/-- Section 4.4: bit 0 of the last byte flipped, nothing is delivered. -/
theorem test_rxchunk_mismatch :
    (after (exec (.rxchunk [0x06, 0x01, 0x15, 0x51, 0x9B, 0x0E]) listening)).map
      (fun s => (s.rxState, s.rxBuf, s.trace)) = some (.listening, [], []) := by decide

/-- Section 4.2: a noise byte, then a packet. -/
theorem test_rxchunk_noise_then_packet :
    (after (exec (.rxchunk [0x03, 0x06, 0x01, 0x15, 0x51, 0x9B, 0x0F]) listening)).map
      (fun s => (s.rxExpected, s.trace)) = some (0x06, [.deliver 0x01 [0x01]]) := by decide

/-- Section 5: the last tick expires the timer; `rx_expected` keeps its value. -/
theorem test_tick_expires : (after (exec .tick (assembling [0x08] 0x08 1))).map
    (fun s => (s.rxState, s.rxBuf, s.rxExpected, s.tmrRun, s.tmrCnt)) =
      some (.listening, [], 0x08, false, 0) := by decide

/-- Section 5: 999 of 1000 ticks leave one. -/
theorem test_ticks_999 : (after (exec (.ticks 999) (assembling [0x08] 0x08 1000))).map State.tmrCnt =
    some 1 := by decide +kernel

/-- Section 5: as many ticks as the count end in the timeout, more do nothing. -/
theorem test_ticks_5000 : (after (exec (.ticks 5000) (assembling [0x08] 0x08 1000))).map
    (fun s => (s.rxState, s.rxBuf, s.tmrRun, s.tmrCnt)) = some (.listening, [], false, 0) := by
  decide +kernel

/-- R220: the codes of the conditions. -/
theorem test_condition_codes :
    [Condition.invalidArgument, .noiseDrop, .crcDrop, .timeout].map Condition.code = [1, 2, 3, 4] := by decide

/-- 10_state.md section 1: `LISTENING` = 0, `ASSEMBLING` = 1. -/
theorem test_rxState_bits : RxState.listening.bit = 0 ∧ RxState.assembling.bit = 1 := by decide

/-- RF section 8.8: 2024-03-15, a Friday, 13:45:30. -/
theorem test_date_time_payload :
    DateTime.payload ⟨2024, 3, 15, 5, 13, 45, 30⟩ =
      [0x01, 0x00, 0x00, 0x00, 0x18, 0x03, 0x0F, 0x05, 0x0D, 0x2D, 0x1E] := by decide

/-! ### Witnesses: the hypotheses of each statement are met, at the edges of its clauses -/

theorem witness_ResetIsLegalAndIdle : Config.Legal ⟨1, false⟩ ∧ Config.Legal ⟨1000, true⟩ := by decide

theorem witness_StepRunsTheDecodedOperation :
    decode (State.reset.withStream [0x04]).stream = .ok (.stop, []) ∧
    decode State.reset.stream = .error .endOfStream := ⟨rfl, rfl⟩

theorem witness_DecodeEncodeRoundTrip :
    Instr.wellFormed (.frame [0x5A]) = true ∧ Instr.wellFormed (.ticks 65535) = true ∧
    Instr.wellFormed (.rxchunk []) = true := by decide

theorem witness_DecodeAcceptsOnlyEncodings : decode [0x05, 0xFF, 0x04] = .ok (.rxb 0xFF, [0x04]) := rfl

theorem witness_ReservedAndTruncatedAreRefused :
    ((0 : Byte) = 0 ∨ 9 ≤ (0 : Byte).toNat) ∧ ((9 : Byte) = 0 ∨ 9 ≤ (9 : Byte).toNat) ∧
    ((255 : Byte) = 0 ∨ 9 ≤ (255 : Byte).toNat) ∧
    Instr.wellFormed (.ticks 2) = true ∧ encode (.ticks 2) = [0x08, 0x02] ++ [0x00] ∧
    ([0x08, 0x02] : List Byte) ≠ [] ∧ ([0x00] : List Byte) ≠ [] ∧
    (State.reset.withStream [0x09]).stream = 0x09 :: [] := by decide

theorem witness_WordsAreLittleEndian :
    (pad4 [1, 2, 3, 4, 5])[4 * 0]? = some 1 ∧ (pad4 [1, 2, 3, 4, 5])[4 * 0 + 1]? = some 2 ∧
    (pad4 [1, 2, 3, 4, 5])[4 * 0 + 2]? = some 3 ∧ (pad4 [1, 2, 3, 4, 5])[4 * 0 + 3]? = some 4 ∧
    (pad4 [1, 2, 3, 4, 5])[4 * 1]? = some 5 ∧ (pad4 [1, 2, 3, 4, 5])[4 * 1 + 1]? = some 0 ∧
    (pad4 [1, 2, 3, 4, 5])[4 * 1 + 2]? = some 0 ∧ (pad4 [1, 2, 3, 4, 5])[4 * 1 + 3]? = some 0 := by decide

/-- Payloads of the least and the greatest legal length, and of the nearest illegal ones. -/
theorem witness_payload_lengths :
    (1 ≤ ([0x5A] : List Byte).length ∧ ([0x5A] : List Byte).length ≤ 250) ∧
    (1 ≤ (List.replicate 250 (0 : Byte)).length ∧ (List.replicate 250 (0 : Byte)).length ≤ 250) ∧
    (([] : List Byte).length = 0 ∨ 250 < ([] : List Byte).length) ∧
    ((List.replicate 251 (0 : Byte)).length = 0 ∨ 250 < (List.replicate 251 (0 : Byte)).length) := by
  rw [List.length_replicate, List.length_replicate]; decide

theorem witness_TrailerBytesAreLittleEndian :
    1 ≤ ([0x5A] : List Byte).length ∧ ([0x5A] : List Byte).length ≤ 250 := by decide

theorem witness_PaddingGoesAfterTheData : 4 % 4 = 0 ∧ ([0xAB] : List Byte).length ≤ 4 := by decide

theorem witness_CrcBitStep :
    2147483648 ≤ (0x80000000 : Word).toNat ∧ (0x7FFFFFFF : Word).toNat < 2147483648 := by decide

theorem witness_CrcIgnoresZerosInTheLastWord :
    ([0x06, 0x01] : List Byte).length + 2 ≤ (pad4 [0x06, 0x01]).length := by decide

theorem witness_CrcDetectsEverySingleBit : ([0x06, 0x01] : List Byte)[1]? = some 0x01 ∧ 7 < 8 := by decide

theorem witness_FrameSendsOrRejects :
    (1 ≤ ([0x5A] : List Byte).length ∧ ([0x5A] : List Byte).length ≤ 250) ∧
    (([] : List Byte).length = 0 ∨ 250 < ([] : List Byte).length) := by decide

theorem witness_FrameBoundarySizes :
    (([] : List Byte).length = 0 ∨ ([] : List Byte).length = 251) ∧
    ((List.replicate 251 (0 : Byte)).length = 0 ∨ (List.replicate 251 (0 : Byte)).length = 251) ∧
    ([0x00] : List Byte).length = 1 ∧ (List.replicate 250 (0 : Byte)).length = 250 := by
  rw [List.length_replicate, List.length_replicate]; decide

theorem witness_SentPacketIsWellFormed :
    1 ≤ (List.replicate 250 (0 : Byte)).length ∧ (List.replicate 250 (0 : Byte)).length ≤ 250 := by
  rw [List.length_replicate]; decide

/-- Legal states for the statements about `LISTEN`, `STOP`, chunks, ticks and totality: at rest, and in the
middle of a packet with the timer at either end of its range. -/
theorem witness_legal_states :
    State.reset.Legal ∧ listening.Legal ∧ (assembling [0x06] 0x06 1).Legal ∧
    (assembling [0x06, 0x01, 0x15, 0x51, 0x9B] 0x06 1000).Legal := by
  refine ⟨by decide, by decide, by decide, by decide⟩

theorem witness_ListenIsTheSoftReset : (assembling [0x08, 0x10] 0x08 400).Legal := by decide

theorem witness_StopStopsTheTimerOnly :
    (assembling [0x06] 0x06 1000).Legal ∧
    State.Legal { assembling [0x06] 0x06 1000 with cfg := ⟨1000, false⟩ } := by decide

theorem witness_ListenAndStopAreIdempotent : (assembling [0x06] 0x06 1000).Legal := by decide

theorem witness_NoiseIsDiscarded :
    listening.Legal ∧ listening.rxState = .listening ∧ (0 : Byte).toNat < 6 ∧ (5 : Byte).toNat < 6 := by decide

theorem witness_LengthByteBeginsAssembly :
    listening.Legal ∧ listening.rxState = .listening ∧ 6 ≤ (6 : Byte).toNat ∧ 6 ≤ (255 : Byte).toNat := by
  decide

/-- Both clauses of the comparison, on the packet `06 01 15 51 9B 0F` and on its last byte changed. -/
theorem witness_CompletePacketIsChecked :
    let s := assembling [0x06, 0x01, 0x15, 0x51, 0x9B] 0x06 1
    (s.Legal ∧ s.rxState = .assembling ∧ s.cbValid = true ∧ s.rxBuf.length + 1 = s.rxExpected.toNat) ∧
    (s.rxBuf ++ [0x0F] = [0x06, 0x01] ++ [0x15, 0x51, 0x9B, 0x0F] ∧
      le32? [0x15, 0x51, 0x9B, 0x0F] = some (crcCompute [0x06, 0x01])) ∧
    (s.rxBuf ++ [0x0E] = [0x06, 0x01] ++ [0x15, 0x51, 0x9B, 0x0E] ∧
      le32? [0x15, 0x51, 0x9B, 0x0E] ≠ some (crcCompute [0x06, 0x01])) := by
  refine ⟨by decide, by decide, by decide⟩

/-- The four cases of a byte, each at its edge; the last one matching with and without a callback. -/
theorem witness_RxbTransitions :
    (listening.Legal ∧ listening.rxState = .listening ∧ (5 : Byte).toNat < 6) ∧
    (listening.Legal ∧ listening.rxState = .listening ∧ 6 ≤ (6 : Byte).toNat) ∧
    (let s := assembling [0x06, 0x01, 0x15, 0x51] 0x06 1
     s.Legal ∧ s.rxState = .assembling ∧ s.rxBuf.length + 1 < s.rxExpected.toNat) ∧
    (let s := assembling [0x06, 0x01, 0x15, 0x51, 0x9B] 0x06 1
     s.Legal ∧ s.rxState = .assembling ∧ s.rxBuf.length + 1 = s.rxExpected.toNat ∧
       checksumMatches (s.rxBuf ++ [0x0F]) s.rxExpected.toNat = true ∧ s.cbValid = true) := by
  refine ⟨by decide, by decide, ⟨by decide, by decide, by decide⟩,
    by decide, by decide, by decide, by decide, by decide⟩

theorem witness_RxchunkIsItsBytes : listening.Legal ∧ (assembling [0x06] 0x06 1).Legal := by decide

theorem witness_ChunkBoundariesDoNotMatter : listening.Legal := by decide

theorem witness_CandidatePacketOutcome :
    listening.Legal ∧ listening.rxState = .listening ∧
    6 ≤ (6 : Byte).toNat ∧ ([0x01, 0x15, 0x51, 0x9B, 0x0F] : List Byte).length + 1 = (6 : Byte).toNat ∧
    6 ≤ (255 : Byte).toNat ∧ (List.replicate 254 (0 : Byte)).length + 1 = (255 : Byte).toNat := by
  refine ⟨by decide, by decide, by decide, by decide, by decide, by rw [List.length_replicate]; decide⟩

theorem witness_FramedPayloadIsDelivered :
    listening.Legal ∧ listening.rxState = .listening ∧ listening.cbValid = true ∧
    1 ≤ ([0x01] : List Byte).length ∧ ([0x01] : List Byte).length ≤ 250 := by decide

theorem witness_BackToBackPacketsAreDelivered :
    listening.Legal ∧ listening.rxState = .listening ∧ listening.cbValid = true ∧
    ∀ p ∈ ([[0x01], [0xAA, 0xBB]] : List (List Byte)), 1 ≤ p.length ∧ p.length ≤ 250 := by decide

/-- A bit of the payload, and a bit of the last byte of the trailer, of the packet `06 01 15 51 9B 0F`. -/
theorem witness_SingleBitCorruptionIsDropped :
    listening.Legal ∧ listening.rxState = .listening ∧
    1 ≤ ([0x01] : List Byte).length ∧ ([0x01] : List Byte).length ≤ 250 ∧
    1 ≤ 1 ∧ (packet [0x01])[1]? = some 0x01 ∧ 7 < 8 ∧
    1 ≤ 5 ∧ (packet [0x01])[5]? = some 0x0F ∧ 0 < 8 := by decide

theorem witness_TickCountsAndExpires :
    (listening.Legal ∧ listening.tmrRun = false) ∧
    ((assembling [0x08] 0x08 2).Legal ∧ (assembling [0x08] 0x08 2).tmrRun = true ∧
      2 ≤ (assembling [0x08] 0x08 2).tmrCnt) ∧
    ((assembling [0x08] 0x08 1).Legal ∧ (assembling [0x08] 0x08 1).tmrRun = true ∧
      (assembling [0x08] 0x08 1).tmrCnt = 1) := by
  refine ⟨by decide, ⟨by decide, by decide, by decide⟩, by decide, by decide, by decide⟩

theorem witness_TicksIsRepeatedTick : (assembling [0x08] 0x08 1000).Legal := by decide

theorem witness_TimerExpiresOnTheLastTick :
    listening.Legal ∧ listening.tmrEn = true ∧ 999 < listening.cfg.tInact ∧ listening.cfg.tInact ≤ 1000 := by
  decide

theorem witness_StalePartialPacketIsAbandoned :
    let s := assembling [0x08] 0x08 1000
    s.Legal ∧ s.tmrRun = true ∧ s.cbValid = true ∧ s.cfg.tInact ≤ 1000 ∧
    1 ≤ ([0x10, 0x20, 0x30, 0x40] : List Byte).length ∧
    ([0x10, 0x20, 0x30, 0x40] : List Byte).length ≤ 250 := by decide

theorem witness_NoTimeoutAfterStop :
    (assembling [0x06] 0x06 1000).Legal ∧
    (∀ i ∈ [Instr.ticks 2000, .frame [0x01]], ∀ h, i ≠ .listen h) ∧
    (∀ i ∈ [Instr.ticks 2000, .frame [0x01]], i.feedsBytes = false) ∧
    (assembling [0x06] 0x06 1000).cfg.stopSticky = true := by
  refine ⟨by decide, by simp, by decide, by decide⟩

theorem witness_AssemblingIsBounded :
    let s := assembling [0x06] 0x06 1000
    s.Legal ∧ s.rxState = .assembling ∧ s.tmrRun = true ∧
    ([0x01, 0x15, 0x51, 0x9B, 0x0F] : List Byte).length = s.rxExpected.toNat - s.rxBuf.length := by decide

theorem witness_ExpiryInListeningIsInvisible :
    let s := { listening with tmrRun := true, tmrCnt := 1 }
    s.Legal ∧ s.rxState = .listening := by decide

theorem witness_TimedRunsAreUntimedRuns :
    (assembling [0x08] 0x08 1).Legal ∧
    exec .tick (assembling [0x08] 0x08 1) = .next (assembling [0x08] 0x08 1).tick ∧
    runOps [.tick] (assembling [0x08] 0x08 1) = .next (assembling [0x08] 0x08 1).tick := ⟨by decide, rfl, rfl⟩

theorem witness_StepKeepsTheInvariants :
    (listening.withStream [0x05, 0x06]).Legal ∧
    step (listening.withStream [0x05, 0x06]) = .next ((listening.withStream []).rxByte 0x06) :=
  ⟨by decide, rfl⟩

theorem witness_ReachableStatesMeetTheInvariants : Reachable State.reset := .reset _ (by decide)

theorem witness_EveryOperationCompletes : (assembling [0x06] 0x06 1000).Legal := by decide

/-- One state outside each clause of R22, and an operation of the receive path. -/
theorem witness_StatesOutsideTheInvariantsAreRefused :
    ¬ State.Legal { State.reset with rxBuf := [0x06] } ∧ ¬ (assembling [0x06] 0x05 1).Legal ∧
    ¬ (assembling [0x06] 0x06 0).Legal ∧ ¬ (assembling [0x06] 0x06 1001).Legal ∧
    ¬ State.Legal { assembling [0x06] 0x06 1 with tmrEn := false } ∧
    ¬ State.Legal { State.reset with cfg := ⟨0, true⟩ } ∧ (Instr.rxb 0x06).isReceivePath = true := by
  refine ⟨by decide, by decide, by decide, by decide, by decide, by decide, by decide⟩

theorem witness_OnlyListedOperationsWrite :
    exec .stop listening = .next listening.stop ∧
    exec (.frame [0x01]) listening = .next (listening.frame [0x01]) ∧
    (Instr.frame [0x01]).isReceivePath = false := ⟨rfl, rfl, rfl⟩

theorem witness_EventsComeFromTheirOperation :
    exec (.rxb 0x0F) (assembling [0x06, 0x01, 0x15, 0x51, 0x9B] 0x06 1) =
      .next ((assembling [0x06, 0x01, 0x15, 0x51, 0x9B] 0x06 1).rxByte 0x0F) := rfl

theorem witness_SendAndReceivePathsCommute :
    listening.Legal ∧ (Instr.frame [0x01]).isReceivePath = false ∧
    (Instr.rxb 0x06).isReceivePath = true := by decide

theorem witness_ByteAndExpiryRunInEitherOrder :
    let s := assembling [0x08] 0x08 1
    s.Legal ∧ s.rxState = .assembling ∧ s.tmrRun = true ∧ s.tmrCnt = 1 ∧ 2 ≤ s.cfg.tInact ∧
    6 ≤ (6 : Byte).toNat ∧ s.rxBuf.length + 1 < s.rxExpected.toNat := by decide

/-- Each of the four conditions is raised by some operation. -/
theorem witness_ConditionsAreSilentAndEndListening :
    conditionsOf (.frame []) listening = [.invalidArgument] ∧
    (listening.Legal ∧ conditionsOf (.rxb 0x05) listening = [.noiseDrop]) ∧
    (let s := assembling [0x06, 0x01, 0x15, 0x51, 0x9B] 0x06 1
     s.Legal ∧ conditionsOf (.rxb 0x0E) s = [.crcDrop]) ∧
    ((assembling [0x08] 0x08 1).Legal ∧ conditionsOf .tick (assembling [0x08] 0x08 1) = [.timeout]) := by
  refine ⟨by decide, ⟨by decide, by decide⟩, ⟨by decide, by decide⟩, by decide, by decide⟩

theorem witness_DutifulHostCannotSeeStopSticky :
    listening.Legal ∧
    dutiful true [.rxb 0x06, .stop, .ticks 2000, .listen 0x07, .rxb 0x06] = true ∧
    dutiful true [.stop, .rxb 0x06] = false := by decide

theorem witness_DateTimePayloadBytes :
    DateTime.InRange ⟨2000, 1, 1, 1, 0, 0, 0⟩ ∧ DateTime.InRange ⟨2255, 12, 31, 7, 23, 59, 59⟩ := by decide

/-- RF section 8.7: A enqueues C while it is built; C is framed after B. -/
theorem witness_CommandsAreFramedInQueueOrder :
    Drain [.mk [] [0xA1] [.mk [] [0xC1] []], .mk [] [0xB1] []]
      [.frame [0xA1], .frame [0xB1], .frame [0xC1]] :=
  .next _ _ _ (by decide) (.next _ _ _ (by decide) (.next _ _ _ (by decide) .done))

end Sys2Proof.Machine.Tests
end

/-! Byte order as numbers: `le32` is the positional value of its four bytes, `bytesLe` are the base-256 digits
of its word, so the two are inverse; `wordsOf` takes four bytes per word; and the trailer of a packet is read as
it was written. Settles O7 and O8 (20_memory.md R42, R43; 40_crc.md R102). -/

namespace Sys2Proof.Machine

/-! ### Words and bytes as numbers (R42, R43) -/

/-- A byte set above the `k` low bits that are in use adds to them. -/
theorem or_shiftLeft_eq_add {n k : Nat} (b : Nat) (hn : n < 2 ^ k) : n ||| b <<< k = n + 2 ^ k * b := by
  rw [Nat.or_comm, ← Nat.shiftLeft_add_eq_or_of_lt hn, Nat.shiftLeft_eq, Nat.add_comm, Nat.mul_comm]

theorem le32_toNat (b0 b1 b2 b3 : Byte) :
    (le32 b0 b1 b2 b3).toNat =
      b0.toNat + 256 * b1.toNat + 65536 * b2.toNat + 16777216 * b3.toNat := by
  have h0 := b0.isLt
  have h1 := b1.isLt
  have h2 := b2.isLt
  have h3 := b3.isLt
  have hbits : (le32 b0 b1 b2 b3).toNat =
      b0.toNat ||| b1.toNat <<< 8 ||| b2.toNat <<< 16 ||| b3.toNat <<< 24 := by
    simp only [le32, BitVec.toNat_or, BitVec.toNat_shiftLeft, BitVec.toNat_setWidth]
    simp (disch := omega) only [Nat.shiftLeft_eq, Nat.mod_eq_of_lt]
  rw [hbits, or_shiftLeft_eq_add b1.toNat h0, or_shiftLeft_eq_add b2.toNat (k := 16) (by omega),
    or_shiftLeft_eq_add b3.toNat (k := 24) (by omega)]
  norm_num

theorem bytesLe_eq_ofNat (w : Word) : bytesLe w =
    [BitVec.ofNat 8 w.toNat, BitVec.ofNat 8 (w.toNat / 256), BitVec.ofNat 8 (w.toNat / 65536),
      BitVec.ofNat 8 (w.toNat / 16777216)] := by
  simp [bytesLe, BitVec.extractLsb', Nat.shiftRight_eq_div_pow]

/-- The digits of the positional value are the bytes it was made of. -/
@[simp] theorem bytesLe_le32 (b0 b1 b2 b3 : Byte) : bytesLe (le32 b0 b1 b2 b3) = [b0, b1, b2, b3] := by
  rw [bytesLe_eq_ofNat, le32_toNat]
  simp only [List.cons.injEq, and_true]
  refine ⟨?_, ?_, ?_, ?_⟩ <;> bv_omega

/-! ### The words of a sequence (R102) -/

theorem wordsOf_length : ∀ s : List Byte, (wordsOf s).length = s.length / 4
  | [] | [_] | [_, _] | [_, _, _] => by simp [wordsOf]
  | _ :: _ :: _ :: _ :: rest => by
    simp only [wordsOf, List.length_cons, wordsOf_length rest]
    omega

theorem drop_eq_cons_of_getElem? {s : List Byte} {i : Nat} {b : Byte} (h : s[i]? = some b) :
    s.drop i = b :: s.drop (i + 1) := by
  rw [List.drop_eq_getElem?_toList_append, h, Option.toList_some, List.singleton_append]

/-- Cut at index `4 * k`, a sequence is `k` words and then what begins with the `k`-th. -/
theorem wordsOf_getElem? (s : List Byte) (k : Nat) (b0 b1 b2 b3 : Byte)
    (h0 : s[4 * k]? = some b0) (h1 : s[4 * k + 1]? = some b1)
    (h2 : s[4 * k + 2]? = some b2) (h3 : s[4 * k + 3]? = some b3) :
    (wordsOf s)[k]? = some (le32 b0 b1 b2 b3) := by
  obtain ⟨hlt, -⟩ := List.getElem?_eq_some_iff.1 h0
  have htake : (s.take (4 * k)).length = 4 * k := List.length_take_of_le hlt.le
  have hdrop : s.drop (4 * k) = b0 :: b1 :: b2 :: b3 :: s.drop (4 * k + 4) := by
    rw [drop_eq_cons_of_getElem? h0, drop_eq_cons_of_getElem? h1, drop_eq_cons_of_getElem? h2,
      drop_eq_cons_of_getElem? h3]
  have hwords : (wordsOf (s.take (4 * k))).length = k := by
    rw [wordsOf_length, htake]
    omega
  calc (wordsOf s)[k]?
      = (wordsOf (s.take (4 * k) ++ s.drop (4 * k)))[k]? := by rw [List.take_append_drop]
    _ = (wordsOf (s.take (4 * k)) ++ wordsOf (s.drop (4 * k)))[k]? := by
      rw [wordsOf_append _ _ (by omega)]
    _ = (wordsOf (s.drop (4 * k)))[0]? := by rw [List.getElem?_append_right hwords.le, hwords, Nat.sub_self]
    _ = some (le32 b0 b1 b2 b3) := by rw [hdrop]; rfl

/-- Settles O7: `le32` is a positional value, and the `k`-th word is read at index `4 * k`. -/
theorem wordsAreLittleEndian : Obligations.WordsAreLittleEndian :=
  ⟨le32_toNat, rfl, fun s => wordsOf_length (pad4 s), fun s => wordsOf_getElem? (pad4 s)⟩

/-! ### The trailer of a packet (R43) -/

theorem packet_take_head (payload : List Byte) :
    (packet payload).take (payload.length + 1) = framerHead payload :=
  List.take_left' (framerHead_length payload)

theorem packet_drop_head (payload : List Byte) :
    (packet payload).drop (payload.length + 1) = bytesLe (crcCompute (framerHead payload)) :=
  List.drop_left' (framerHead_length payload)

theorem checksumMatches_append_bytesLe (head : List Byte) (w : Word) :
    checksumMatches (head ++ bytesLe w) (head.length + 4) = true ↔ w = crcCompute head := by
  rw [checksumMatches, headOf_append, trailerOf_append _ _ (bytesLe_length w), le32?_bytesLe,
    beq_iff_eq, Option.some.injEq]

/-- Settles O8: `bytesLe` and `le32` are inverse, and the Framer and the Receiver both cut a packet after
its head. -/
theorem trailerBytesAreLittleEndian : Obligations.TrailerBytesAreLittleEndian := by
  refine ⟨bytesLe_eq_ofNat, le32?_bytesLe, bytesLe_le32, fun payload _ _ => ?_,
    checksumMatches_append_bytesLe⟩
  rw [packet_drop_head, packet_take_head]

end Sys2Proof.Machine

/-! The Checksum Engine's padding, bit step and result: `pad4` adds fewer than four bytes, `crcBit` doubles
modulo 2^32 and folds the lost bit back as the polynomial, and `CRC.COMPUTE` emits the fold of the word step.
Settles O9 to O12 (40_crc.md R101, R103 to R107). -/

namespace Sys2Proof.Machine

/-! ### Padding (R101) -/

/-- No multiple of 4 lies between a length and its padded length. -/
theorem pad4_length_le (s : List Byte) {m : Nat} (hm : m % 4 = 0) (hs : s.length ≤ m) :
    (pad4 s).length ≤ m := by
  rw [pad4_length]
  omega

/-- Settles O9: fewer than four zero bytes are added, so the padded length is the least multiple of 4. -/
theorem paddingGoesAfterTheData : Obligations.PaddingGoesAfterTheData :=
  ⟨rfl, fun s => ⟨pad4_eq s, pad4_length_mod s, fun _ => pad4_length_le s⟩⟩

/-! ### The bit step (R103) -/

theorem msb_eq_true_iff_le_toNat (c : Word) : c.msb = true ↔ 2147483648 ≤ c.toNat := by
  simp [BitVec.msb_eq_decide]

theorem shiftLeft_one_toNat (c : Word) : (c <<< 1).toNat = 2 * c.toNat % 4294967296 := by
  rw [BitVec.toNat_shiftLeft, Nat.shiftLeft_eq, Nat.mul_comm]

theorem crcBit_toNat_of_le {c : Word} (h : 2147483648 ≤ c.toNat) :
    (crcBit c).toNat = (2 * c.toNat - 4294967296) ^^^ 0x04C11DB7 := by
  have hlt : c.toNat < 4294967296 := c.isLt
  have hshift : 2 * c.toNat % 4294967296 = 2 * c.toNat - 4294967296 := by omega
  rw [crcBit, if_pos ((msb_eq_true_iff_le_toNat c).2 h), BitVec.toNat_xor, shiftLeft_one_toNat, hshift]
  rfl

theorem crcBit_toNat_of_lt {c : Word} (h : c.toNat < 2147483648) : (crcBit c).toNat = 2 * c.toNat := by
  have hmsb : ¬ c.msb = true := fun hm => absurd ((msb_eq_true_iff_le_toNat c).1 hm) (Nat.not_le.2 h)
  rw [crcBit, if_neg hmsb, shiftLeft_one_toNat, Nat.mod_eq_of_lt (by omega)]

/-- Settles O10: a set top bit is worth 2^32 after the doubling, which the shift takes off. -/
theorem crcBitStep : Obligations.CrcBitStep :=
  fun _ => ⟨crcBit_toNat_of_le, crcBit_toNat_of_lt⟩

/-! ### The operation (R104 to R107) -/

theorem exec_crcCompute (bytes : List Byte) (s : State) :
    exec (.crcCompute bytes) s =
      .next { s with trace := s.trace ++ [.retCrc (crcCompute bytes)] } := rfl

theorem crcCompute_eq_foldl_iterate (bytes : List Byte) :
    crcCompute bytes = (words bytes).foldl (fun c w => crcBit^[32] (c ^^^ w)) 0xFFFFFFFF := by
  have hword : crcWord = fun c w => crcBit^[32] (c ^^^ w) := funext₂ crcWord_eq
  rw [crcCompute_eq, hword, crcInit]

@[simp] theorem crcCompute_nil : crcCompute [] = 0xFFFFFFFF := rfl

/-- Settles O11: the event emitted carries the checksum, and the checksum is the fold. -/
theorem crcComputeReturnsTheFold : Obligations.CrcComputeReturnsTheFold := by
  intro bytes s
  rw [exec_crcCompute, crcCompute_eq_foldl_iterate]

/-- Settles O12: no words, so no word step. -/
theorem crcOfNothingIsInit : Obligations.CrcOfNothingIsInit := by
  intro s
  rw [exec_crcCompute, crcCompute_nil]

end Sys2Proof.Machine

/-! `FRAME` has two outcomes, decided by the length of the payload alone: a legal payload is sent as its
packet, any other is reported. Settles O17 and O18 (41_framer.md R120, R121, R131). -/

namespace Sys2Proof.Machine

/-! ### The operation (R120, R121) -/

theorem not_payloadLegal_iff (payload : List Byte) :
    ¬ PayloadLegal payload ↔ payload.length = 0 ∨ 250 < payload.length := by
  rw [payloadLegal_iff]
  omega

theorem exec_frame_of_legal {payload : List Byte} (h : PayloadLegal payload) (s : State) :
    exec (.frame payload) s =
      .next { s with trace := s.trace ++ [.tx (packet payload), .retFrame .ok] } :=
  congrArg Host.Outcome.next (frame_of_legal s h)

theorem exec_frame_of_not_legal {payload : List Byte} (h : ¬ PayloadLegal payload) (s : State) :
    exec (.frame payload) s = .next { s with trace := s.trace ++ [.retFrame .invalidArgument] } :=
  congrArg Host.Outcome.next (frame_of_not_legal s h)

/-- Settles O17: the size check splits the payloads, and `packet` is the byte sequence the rule writes out. -/
theorem frameSendsOrRejects : Obligations.FrameSendsOrRejects := fun payload s =>
  ⟨fun hmin hmax => exec_frame_of_legal ⟨hmin, hmax⟩ s,
    fun hsize => exec_frame_of_not_legal ((not_payloadLegal_iff payload).2 hsize) s⟩

/-! ### The boundary sizes (R131) -/

theorem exec_frame_sends_of_length {payload : List Byte} {n : Nat} (hlen : payload.length = n)
    (hmin : 1 ≤ n) (hmax : n ≤ 250) (s : State) :
    ∃ pkt : List Byte, pkt.length = n + 5 ∧
      exec (.frame payload) s = .next { s with trace := s.trace ++ [.tx pkt, .retFrame .ok] } := by
  subst hlen
  exact ⟨packet payload, packet_length payload, exec_frame_of_legal ⟨hmin, hmax⟩ s⟩

/-- Settles O18: 0 and 251 lie outside the legal sizes, 1 and 250 are their ends, and a packet is five
bytes longer than its payload. -/
theorem frameBoundarySizes : Obligations.FrameBoundarySizes := by
  intro payload s
  refine ⟨fun hlen => ?_, fun hlen => ?_, fun hlen => ?_⟩
  · have hillegal : ¬ PayloadLegal payload := (not_payloadLegal_iff payload).2 (by omega)
    exact exec_frame_of_not_legal hillegal s
  · exact exec_frame_sends_of_length hlen (by decide) (by decide) s
  · exact exec_frame_sends_of_length hlen (by decide) (by decide) s

end Sys2Proof.Machine

/-! A received byte under its cases: noise, the length byte, the byte that completes a packet; and chunks, which
are their bytes however they are cut. Settles O23, O24, O25 and O28 (42_receiver.md R143, R144, R146 to R149,
R153). -/

namespace Sys2Proof.Machine

/-! ### The operations in a legal state (R142, R152) -/

theorem exec_rxb_of_legal {s : State} (h : s.Legal) (b : Byte) :
    exec (.rxb b) s = .next (s.rxByte b) := onLegal_of_legal h _

theorem exec_rxchunk_of_legal {s : State} (h : s.Legal) (bytes : List Byte) :
    exec (.rxchunk bytes) s = .next (s.rxChunk bytes) := onLegal_of_legal h _

theorem runOps_cons_of_next {i : Instr} {s t : State} (h : exec i s = .next t) (is : List Instr) :
    runOps (i :: is) s = runOps is t := by
  rw [runOps, h]

/-! ### A byte in `Listening` (R143, R144) -/

theorem rxByte_noise {s : State} {b : Byte} (hl : s.rxState = .listening) (hb : b.toNat < 6) :
    s.rxByte b = s.restartTimer :=
  congrArg State.restartTimer (acceptByte_noise hl hb)

theorem rxByte_begin {s : State} {b : Byte} (hl : s.rxState = .listening) (hb : 6 ≤ b.toNat) :
    s.rxByte b = (s.beginPacket b).restartTimer :=
  congrArg State.restartTimer (acceptByte_begin hl (Nat.not_lt.2 hb))

/-- Settles O23: a noise byte restarts the timer and does nothing else. -/
theorem noiseIsDiscarded : Obligations.NoiseIsDiscarded := by
  intro b s hs hl hb
  refine ⟨s.rxByte b, exec_rxb_of_legal hs b, ?_⟩
  rw [rxByte_noise hl hb]
  exact ⟨hl, rfl, rfl, rfl⟩

/-- Settles O24: the buffer is empty in `Listening`, so the byte appended is the one at index 0. -/
theorem lengthByteBeginsAssembly : Obligations.LengthByteBeginsAssembly := by
  intro b s hs hl hb
  have hempty : s.rxBuf = [] := hs.1 hl
  refine ⟨s.rxByte b, exec_rxb_of_legal hs b, ?_⟩
  rw [rxByte_begin hl hb, hempty]
  exact ⟨rfl, rfl, rfl, rfl, rfl⟩

/-! ### The byte that completes a packet (R146 to R149) -/

/-- The two forms of the comparison of R147: as a word, or as bytes. -/
theorem le32?_eq_some_iff (trailer : List Byte) (w : Word) :
    le32? trailer = some w ↔ bytesLe w = trailer := by
  constructor
  · intro h
    unfold le32? at h
    split at h
    · obtain rfl := Option.some.inj h
      exact bytesLe_le32 _ _ _ _
    · cases h
  · rintro rfl
    exact le32?_bytesLe w

theorem checksumMatches_append {head trailer : List Byte} (ht : trailer.length = 4) :
    checksumMatches (head ++ trailer) (head.length + 4) = true ↔
      le32? trailer = some (crcCompute head) := by
  rw [checksumMatches, headOf_append, trailerOf_append _ _ ht, beq_iff_eq]

/-- A partial packet begins with the length byte it was declared by, which is a legal one (R22 (b)). -/
theorem rxBuf_of_assembling {s : State} (hs : s.Legal) (ha : s.rxState = .assembling) :
    ∃ rest, s.rxBuf = s.rxExpected :: rest ∧ 6 ≤ s.rxExpected.toNat ∧ s.rxExpected.toNat ≤ 255 := by
  obtain ⟨-, hpartial, -⟩ := hs
  obtain ⟨-, -, hhead, hmin, hmax⟩ := hpartial ha
  obtain ⟨rest, hrest⟩ := List.head?_eq_some_iff.1 hhead
  exact ⟨rest, hrest, hmin, hmax⟩

/-- A completed buffer without its trailer is the length byte and a payload of a legal size. -/
theorem head_of_complete_buffer {s : State} {b : Byte} {head trailer : List Byte} (hs : s.Legal)
    (ha : s.rxState = .assembling) (hlen : s.rxBuf.length + 1 = s.rxExpected.toNat)
    (hsplit : s.rxBuf ++ [b] = head ++ trailer) (ht : trailer.length = 4) :
    ∃ payload, head = s.rxExpected :: payload ∧ s.rxExpected.toNat = payload.length + 5 ∧
      1 ≤ payload.length ∧ payload.length ≤ 250 := by
  obtain ⟨rest, hbuf, hmin, hmax⟩ := rxBuf_of_assembling hs ha
  have hlength : head.length + 4 = s.rxExpected.toNat := by
    have := congrArg List.length hsplit
    simp only [List.length_append, List.length_singleton] at this
    omega
  cases head with
  | nil =>
    rw [List.length_nil] at hlength
    omega
  | cons first payload =>
    obtain ⟨rfl, -⟩ : s.rxExpected = first ∧ rest ++ [b] = payload ++ trailer := by
      simpa [hbuf] using hsplit
    rw [List.length_cons] at hlength
    exact ⟨payload, rfl, by omega, by omega, by omega⟩

/-- Completion where a callback is installed, on a buffer already split at the declared length. -/
theorem rxByte_complete {s : State} {b : Byte} {payload trailer : List Byte}
    (ha : s.rxState = .assembling) (hcb : s.cbValid = true)
    (hlen : s.rxBuf.length + 1 = s.rxExpected.toNat)
    (hsplit : s.rxBuf ++ [b] = s.rxExpected :: payload ++ trailer)
    (hpayload : s.rxExpected.toNat = payload.length + 5) (ht : trailer.length = 4) :
    (s.rxByte b).rxState = .listening ∧ (s.rxByte b).rxBuf = [] ∧
      (s.rxByte b).trace = s.trace ++
        if le32? trailer = some (crcCompute (s.rxExpected :: payload)) then [.deliver s.cb payload]
        else [] := by
  have hmatch : checksumMatches (s.rxExpected :: payload ++ trailer) (payload.length + 5) = true ↔
      le32? trailer = some (crcCompute (s.rxExpected :: payload)) := checksumMatches_append ht
  rw [State.rxByte, acceptByte_complete ha hlen, complete_eq]
  refine ⟨rfl, rfl, ?_⟩
  simp only [restartTimer_trace, appendByte_trace, appendByte_rxBuf, appendByte_rxExpected,
    appendByte_cb, appendByte_cbValid, hsplit, hpayload, hmatch, hcb, and_true, payloadOf_append]

/-- Settles O25: the head is the length byte and the payload, and the trace grows by the comparison alone. -/
theorem completePacketIsChecked : Obligations.CompletePacketIsChecked := by
  intro b s head trailer hs ha hcb hlen hsplit ht
  obtain ⟨payload, rfl, hpayload, hmin, hmax⟩ := head_of_complete_buffer hs ha hlen hsplit ht
  obtain ⟨hstate, hbuf, htrace⟩ := rxByte_complete ha hcb hlen hsplit hpayload ht
  have hhead : (s.rxExpected :: payload).length = payload.length + 1 := List.length_cons
  refine ⟨s.rxByte b, payload, exec_rxb_of_legal hs b, hstate, hbuf, rfl, by omega, by omega, by omega,
    by omega, hmin, hmax, le32?_eq_some_iff _ _, fun hmatch => ?_, fun hmismatch => ?_⟩
  · rw [htrace, if_pos hmatch]
  · rw [htrace, if_neg hmismatch, List.append_nil]

/-! ### Chunks (R153) -/

theorem runOps_map_rxchunk (chunks : List (List Byte)) {s : State} (hs : s.Legal) :
    runOps (chunks.map .rxchunk) s = .next (s.rxChunk chunks.flatten) := by
  induction chunks generalizing s with
  | nil => rfl
  | cons bytes chunks ih =>
    rw [List.map_cons, runOps_cons_of_next (exec_rxchunk_of_legal hs bytes), ih (legal_rxChunk bytes hs),
      List.flatten_cons, rxChunk_append]

/-- Settles O28: both sides are the bytes of the concatenation, one after another. -/
theorem chunkBoundariesDoNotMatter : Obligations.ChunkBoundariesDoNotMatter := fun chunks _ hs =>
  ⟨_, runOps_map_rxchunk chunks hs, exec_rxchunk_of_legal hs chunks.flatten⟩

end Sys2Proof.Machine

/-! The date and time command: every field in its range fits in a byte, so the payload's bytes are the numbers
it was made of. Settles O51 (50_host_command_layer.md R201). -/

namespace Sys2Proof.Machine

/-- Numbers below 256 are read back from the bytes they were written to. -/
theorem map_toNat_map_ofNat_of_lt {ns : List Nat} (h : ∀ n ∈ ns, n < 256) :
    (ns.map (BitVec.ofNat 8)).map BitVec.toNat = ns := by
  rw [List.map_map]
  calc ns.map (BitVec.toNat ∘ BitVec.ofNat 8)
      = ns.map id := List.map_congr_left fun n hn =>
        (BitVec.toNat_ofNat n 8).trans (Nat.mod_eq_of_lt (h n hn))
    _ = ns := List.map_id ns

/-- The numbers the payload of a date and time command encodes, in the order of R201. -/
def DateTime.fields (d : DateTime) : List Nat :=
  [1, 0, 0, 0, d.year - 2000, d.month, d.day, d.dayOfWeek, d.hour, d.minute, d.second]

theorem DateTime.payload_eq_map_fields (d : DateTime) :
    d.payload = d.fields.map (BitVec.ofNat 8) := rfl

/-- The year is the one field whose range needs the whole byte: 2255 is written as 255. -/
theorem DateTime.lt_of_mem_fields {d : DateTime} (hd : d.InRange) : ∀ n ∈ d.fields, n < 256 := by
  obtain ⟨-, hyear, -, hmonth, -, hday, -, hweekday, hhour, hminute, hsecond⟩ := hd
  intro n hn
  simp only [fields, List.mem_cons, List.not_mem_nil, or_false] at hn
  omega

/-- Settles O51: the payload is its fields written as bytes, and no field in range loses a bit there. -/
theorem dateTimePayloadBytes : Obligations.DateTimePayloadBytes := fun d hd =>
  ⟨rfl, d.payload_eq_map_fields ▸ map_toNat_map_ofNat_of_lt (DateTime.lt_of_mem_fields hd)⟩

end Sys2Proof.Machine

/-! The command stream: decoder and encoder are inverse, so what is neither an operation's string nor begins
with one is refused. Settles O2 to O6 (30_encoding.md R79, R80). -/

namespace Sys2Proof

/-! ### Decoding, by the operand's format (R79) -/

theorem takeData_countBytes {data : List Byte} (h : data.length < countBound) (rest : List Byte) :
    takeData (countBytes data.length ++ data ++ rest) = some (data, rest) := by
  rw [takeData, List.append_assoc, takeCount_countBytes h]
  exact takeExactly_append data rest

theorem takeData_eq_some {bs data rest : List Byte} (h : takeData bs = some (data, rest)) :
    data.length < countBound ∧ bs = countBytes data.length ++ data ++ rest := by
  obtain ⟨⟨n, after⟩, hcount, hdata⟩ := Option.bind_eq_some_iff.1 h
  obtain ⟨rfl, hn⟩ := takeCount_eq_some hcount
  obtain ⟨rfl, rfl⟩ := takeExactly_eq_some hdata
  exact ⟨hn, (List.append_assoc ..).symm⟩

theorem takeByte_eq_some {bs rest : List Byte} {v : Byte} (h : takeByte bs = some (v, rest)) :
    bs = v :: rest := by
  cases bs with
  | nil => cases h
  | cons b bs =>
    obtain ⟨rfl, rfl⟩ := Prod.mk.inj (Option.some.inj h)
    rfl

/-- An operand is read back from its bytes, whatever follows them. -/
theorem decodeOperand_operandBytes {i : Instr} (h : i.wellFormed = true) (rest : List Byte) :
    decodeOperand i.op (i.operandBytes ++ rest) = some (i, rest) := by
  cases i with
  | listen | stop | rxb | tick => rfl
  | crcCompute data | frame data | rxchunk data =>
    simp only [Instr.op, Instr.operandBytes, decodeOperand,
      takeData_countBytes (of_decide_eq_true h), Option.map_some]
  | ticks n =>
    simp only [Instr.op, Instr.operandBytes, decodeOperand, takeCount_countBytes (of_decide_eq_true h),
      Option.map_some]

/-- An operand that is read belongs to a well-formed operation of its row, and is spelled by its bytes. -/
theorem decodeOperand_eq_some {op : Op} {bs rest : List Byte} {i : Instr}
    (h : decodeOperand op bs = some (i, rest)) :
    i.wellFormed = true ∧ i.op = op ∧ bs = i.operandBytes ++ rest := by
  cases op with
  | stop | tick =>
    obtain ⟨rfl, rfl⟩ := Prod.mk.inj (Option.some.inj h)
    exact ⟨rfl, rfl, rfl⟩
  | listen | rxb =>
    obtain ⟨⟨v, after⟩, hv, heq⟩ := Option.map_eq_some_iff.1 h
    obtain ⟨rfl, rfl⟩ := Prod.mk.inj heq
    exact ⟨rfl, rfl, takeByte_eq_some hv⟩
  | crcCompute | frame | rxchunk =>
    obtain ⟨⟨data, after⟩, hdata, heq⟩ := Option.map_eq_some_iff.1 h
    obtain ⟨rfl, rfl⟩ := Prod.mk.inj heq
    obtain ⟨hlength, hbytes⟩ := takeData_eq_some hdata
    exact ⟨decide_eq_true hlength, rfl, hbytes⟩
  | ticks =>
    obtain ⟨⟨n, after⟩, hn, heq⟩ := Option.map_eq_some_iff.1 h
    obtain ⟨rfl, rfl⟩ := Prod.mk.inj heq
    obtain ⟨hbytes, hbound⟩ := takeCount_eq_some hn
    exact ⟨decide_eq_true hbound, rfl, hbytes⟩

/-! ### Decoding, by the selector (R79, R80) -/

theorem decode_selector_of_some {op : Op} {bs rest : List Byte} {i : Instr}
    (h : decodeOperand op bs = some (i, rest)) : decode (op.selector :: bs) = .ok (i, rest) := by
  simp only [decode, ofSelector?_selector, h]

theorem decode_selector_of_none {op : Op} {bs : List Byte} (h : decodeOperand op bs = none) :
    decode (op.selector :: bs) = .error (.truncatedOperand op) := by
  simp only [decode, ofSelector?_selector, h]

theorem decode_of_ofSelector?_none {sel : Byte} (h : Op.ofSelector? sel = none) (rest : List Byte) :
    decode (sel :: rest) = .error (.reservedSelector sel) := by
  simp only [decode, h]

/-- Settles O4: the selector picks the operation's own row, and that row reads the operand back. -/
theorem decodeEncodeRoundTrip : Obligations.DecodeEncodeRoundTrip := fun _ rest h =>
  decode_selector_of_some (decodeOperand_operandBytes h rest)

/-- Settles O5: a row is picked by its own selector only, and reads only what an operation of it writes. -/
theorem decodeAcceptsOnlyEncodings : Obligations.DecodeAcceptsOnlyEncodings := by
  intro bs rest i h
  cases bs with
  | nil => cases h
  | cons sel bs =>
    cases hsel : Op.ofSelector? sel with
    | none => cases (decode_of_ofSelector?_none hsel bs).symm.trans h
    | some op =>
      obtain rfl := selector_of_ofSelector? hsel
      cases hoperand : decodeOperand op bs with
      | none => cases (decode_selector_of_none hoperand).symm.trans h
      | some found =>
        cases (decode_selector_of_some hoperand).symm.trans h
        obtain ⟨hwf, rfl, rfl⟩ := decodeOperand_eq_some hoperand
        exact ⟨hwf, rfl⟩

/-! ### Refusals (R80, D19) -/

theorem selector_toNat_bounds (op : Op) : 1 ≤ op.selector.toNat ∧ op.selector.toNat ≤ 8 := by
  cases op <;> decide

theorem ofSelector?_reserved {sel : Byte} (h : sel = 0 ∨ 9 ≤ sel.toNat) : Op.ofSelector? sel = none := by
  refine Option.eq_none_iff_forall_ne_some.2 fun op hop => ?_
  obtain rfl := selector_of_ofSelector? hop
  obtain ⟨hmin, hmax⟩ := selector_toNat_bounds op
  obtain hzero | hlarge := h
  · rw [hzero] at hmin
    exact absurd hmin (by decide)
  · omega

/-- No operation's string begins with the string of another: both are read back from the longer one. -/
theorem encode_append_eq_encode {i j : Instr} {rest : List Byte} (hi : i.wellFormed = true)
    (hj : j.wellFormed = true) (h : encode j ++ rest = encode i) : rest = [] := by
  have hlong : decode (encode j ++ rest) = .ok (i, []) := by
    rw [h, ← List.append_nil (encode i)]
    exact decodeEncodeRoundTrip i [] hi
  have hboth := (decodeEncodeRoundTrip j rest hj).symm.trans hlong
  exact congrArg Prod.snd (Except.ok.inj hboth)

/-- An operand cut short is not complete: read as whole, it would spell an operation whose string begins
the longer one. -/
theorem decodeOperand_truncated {i : Instr} {start missing : List Byte} (h : i.wellFormed = true)
    (hcut : i.operandBytes = start ++ missing) (hmissing : missing ≠ []) :
    decodeOperand i.op start = none := by
  refine Option.eq_none_iff_forall_ne_some.2 fun ⟨j, rest⟩ hread => hmissing ?_
  obtain ⟨hj, hop, rfl⟩ := decodeOperand_eq_some hread
  have hstring : encode j ++ (rest ++ missing) = encode i := by
    rw [encode, encode, hop, hcut, List.cons_append, List.append_assoc]
  exact (List.append_eq_nil_iff.1 (encode_append_eq_encode h hj hstring)).2

namespace Machine

/-- Settles O2: by the two outcomes of the decoder. -/
theorem stepRunsTheDecodedOperation : Obligations.StepRunsTheDecodedOperation := by
  refine ⟨fun s i rest h => ?_, fun s why h => ?_⟩
  · simp only [step, h]
    rfl
  · simp only [step, h]

/-- Settles O3: eight rows of the table, evaluated. -/
theorem sampleWordsDecode : Obligations.SampleWordsDecode :=
  ⟨rfl, rfl, rfl, rfl, rfl, rfl, rfl, rfl⟩

/-- Settles O6: a reserved selector picks no row, and the beginning of a string keeps its selector and
loses part of its operand. -/
theorem reservedAndTruncatedAreRefused : Obligations.ReservedAndTruncatedAreRefused := by
  refine ⟨fun sel rest hsel => decode_of_ofSelector?_none (ofSelector?_reserved hsel) rest,
    fun i start missing hwf hcut hstart hmissing => ?_, fun s sel rest hstream hsel => ?_⟩
  · cases start with
    | nil => exact absurd rfl hstart
    | cons sel start =>
      obtain ⟨rfl, hoperand⟩ := List.cons.inj hcut
      exact decode_selector_of_none (decodeOperand_truncated hwf hoperand hmissing)
  · refine stepRunsTheDecodedOperation.2 s _ ?_
    rw [hstream]
    exact decode_of_ofSelector?_none (ofSelector?_reserved hsel) rest

end Machine

end Sys2Proof

/-! What the checksum sees and what it misses: zeros inside the last word, the byte-serial form, one changed
byte, zeros after a word that cancels `INIT`. A bit step is linear and injective, and so is a word step.
Settles O13 to O16 (40_crc.md R109, R110, R112, R113). -/

namespace Sys2Proof.Machine

/-! ### Zeros inside the last word (R109) -/

theorem pad4_append_zeros {bytes : List Byte} {k : Nat} (h : bytes.length + k ≤ (pad4 bytes).length) :
    pad4 (bytes ++ List.replicate k 0) = pad4 bytes := by
  rw [pad4_length] at h
  rw [pad4_eq, pad4_eq, List.append_assoc, List.replicate_append_replicate, List.length_append,
    List.length_replicate]
  congr 2
  omega

/-- Settles O13: the padding is the same, so the words are. -/
theorem crcIgnoresZerosInTheLastWord : Obligations.CrcIgnoresZerosInTheLastWord := by
  intro bytes k h
  rw [crcCompute, words, pad4_append_zeros h, crcCompute, words]

/-! ### The byte-serial form (R110) -/

/-- Below the top byte, a bit step moves a byte up by one bit. -/
theorem crcBit_byte_shiftLeft (b : Byte) {k : Nat} (hk : k < 24) :
    crcBit (b.setWidth 32 <<< k) = b.setWidth 32 <<< (k + 1) := by
  have hmsb : (b.setWidth 32 <<< k).msb = false := by simp [BitVec.msb_shiftLeft, hk]
  rw [crcBit, hmsb, if_neg Bool.false_ne_true, BitVec.shiftLeft_add]

theorem crcBit_iterate_byte_shiftLeft (b : Byte) (n : Nat) {k : Nat} (hk : k + n ≤ 24) :
    crcBit^[n] (b.setWidth 32 <<< k) = b.setWidth 32 <<< (k + n) := by
  induction n generalizing k with
  | zero => rfl
  | succ n ih =>
    rw [Function.iterate_succ_apply, crcBit_byte_shiftLeft b (by omega), ih (by omega), Nat.add_right_comm,
      Nat.add_assoc]

/-- The four bytes of a word stand in disjoint bits: in each of the four ranges at most one has a bit. -/
theorem le32_eq_xor (b0 b1 b2 b3 : Byte) : le32 b0 b1 b2 b3 =
    b0.setWidth 32 <<< 0 ^^^ b1.setWidth 32 <<< 8 ^^^ b2.setWidth 32 <<< 16 ^^^ b3.setWidth 32 <<< 24 := by
  unfold le32
  ext i hi
  simp only [BitVec.getElem_or, BitVec.getElem_xor, BitVec.getElem_shiftLeft, BitVec.getElem_setWidth]
  obtain h | h | h | h : i < 8 ∨ (8 ≤ i ∧ i < 16) ∨ (16 ≤ i ∧ i < 24) ∨ (24 ≤ i ∧ i < 32) := by omega
  all_goals grind

theorem serialByte_eq (c : Word) (b : Byte) :
    serialByte c b = crcBit^[8] c ^^^ crcBit^[8] (b.setWidth 32 <<< 24) := by
  rw [serialByte, crcBits_eq_iterate, crcBit_iterate_xor]

/-- A word step is four byte-serial steps, the most significant byte first: the word's other bytes reach the
top byte one after another, before the polynomial has touched them. -/
theorem crcWord_le32 (c : Word) (b0 b1 b2 b3 : Byte) :
    crcWord c (le32 b0 b1 b2 b3) = serialByte (serialByte (serialByte (serialByte c b3) b2) b1) b0 := by
  have hb0 := crcBit_iterate_byte_shiftLeft b0 24 (k := 0) (by decide)
  have hb1 := crcBit_iterate_byte_shiftLeft b1 16 (k := 8) (by decide)
  have hb2 := crcBit_iterate_byte_shiftLeft b2 8 (k := 16) (by decide)
  simp only [serialByte_eq, ← hb0, ← hb1, ← hb2, crcWord_eq, le32_eq_xor, crcBit_iterate_xor,
    ← Function.iterate_add_apply, Nat.reduceAdd]
  ac_rfl

theorem foldl_crcWord_wordsOf : ∀ (s : List Byte) (c : Word), s.length % 4 = 0 →
    (wordsOf s).foldl crcWord c = (rev4 s).foldl serialByte c
  | [], _, _ => rfl
  | [_], _, h | [_, _], _, h | [_, _, _], _, h => by simp at h
  | b0 :: b1 :: b2 :: b3 :: rest, c, h => by
    have hrest : rest.length % 4 = 0 := by simp only [List.length_cons] at h; omega
    simp only [wordsOf, rev4, List.foldl_cons, crcWord_le32, foldl_crcWord_wordsOf rest _ hrest]

/-- Settles O14: group by group of the padded sequence. -/
theorem crcEqualsTheByteSerialProcedure : Obligations.CrcEqualsTheByteSerialProcedure := by
  intro bytes
  rw [crcCompute_eq, words, crcByteSerial, foldl_crcWord_wordsOf _ _ (pad4_length_mod bytes)]

/-! ### One changed byte (R112) -/

theorem crcWord_left_injective (w : Word) : Function.Injective (crcWord · w) := fun c d h => by
  have h : crcWord c w = crcWord d w := h
  rw [crcWord_eq, crcWord_eq] at h
  exact (BitVec.xor_left_inj w).1 (crcBit_injective.iterate 32 h)

theorem crcWord_right_injective (c : Word) : Function.Injective (crcWord c) := fun v w h => by
  rw [crcWord_eq, crcWord_eq] at h
  exact (BitVec.xor_right_inj c).1 (crcBit_injective.iterate 32 h)

theorem foldl_crcWord_injective (ws : List Word) : Function.Injective (ws.foldl crcWord) := by
  induction ws with
  | nil => exact fun _ _ h => h
  | cons w ws ih => exact fun _ _ h => crcWord_left_injective w (ih h)

theorem le32_injective {a0 a1 a2 a3 b0 b1 b2 b3 : Byte} (h : le32 a0 a1 a2 a3 = le32 b0 b1 b2 b3) :
    [a0, a1, a2, a3] = [b0, b1, b2, b3] := by
  rw [← bytesLe_le32, h, bytesLe_le32]

/-- A changed byte changes its word, that word step, and every accumulator after it. -/
theorem foldl_crcWord_set_ne : ∀ (s : List Byte) (c : Word) (k : Nat) (b x : Byte), s.length % 4 = 0 →
    s[k]? = some b → x ≠ b →
      (wordsOf (s.set k x)).foldl crcWord c ≠ (wordsOf s).foldl crcWord c
  | [], _, _, _, _, _, hk, _ => by simp at hk
  | [_], _, _, _, _, h, _, _ | [_, _], _, _, _, _, h, _, _ | [_, _, _], _, _, _, _, h, _, _ => by simp at h
  | b0 :: b1 :: b2 :: b3 :: rest, c, k, b, x, h, hk, hx => by
    have hfirst : ∀ {a0 a1 a2 a3 : Byte}, [a0, a1, a2, a3] ≠ [b0, b1, b2, b3] →
        (wordsOf (a0 :: a1 :: a2 :: a3 :: rest)).foldl crcWord c ≠
          (wordsOf (b0 :: b1 :: b2 :: b3 :: rest)).foldl crcWord c := fun hne heq =>
      hne (le32_injective (crcWord_right_injective c (foldl_crcWord_injective _ heq)))
    match k with
    | 0 | 1 | 2 | 3 =>
      obtain rfl := Option.some.inj hk
      exact hfirst (by simp [hx])
    | k + 4 =>
      have hrest : rest.length % 4 = 0 := by simp only [List.length_cons] at h; omega
      exact foldl_crcWord_set_ne rest _ k b x hrest hk hx

/-- The checksum sees every change of a single byte. -/
theorem crcCompute_set_ne {bytes : List Byte} {k : Nat} {b x : Byte} (hk : bytes[k]? = some b)
    (hx : x ≠ b) : crcCompute (bytes.set k x) ≠ crcCompute bytes := by
  obtain ⟨hlt, -⟩ := List.getElem?_eq_some_iff.1 hk
  have hpad : pad4 (bytes.set k x) = (pad4 bytes).set k x := by
    rw [pad4_eq, pad4_eq, List.length_set, List.set_append_left _ _ hlt]
  have hpadded : (pad4 bytes)[k]? = some b := by rw [pad4_eq, List.getElem?_append_left hlt, hk]
  rw [crcCompute_eq, crcCompute_eq, words, words, hpad]
  exact foldl_crcWord_set_ne (pad4 bytes) crcInit k b x (pad4_length_mod bytes) hpadded hx

theorem flipBit_ne (b : Byte) {j : Nat} (hj : j < 8) : b ^^^ BitVec.ofNat 8 (2 ^ j) ≠ b := by
  have hbit : BitVec.ofNat 8 (2 ^ j) ≠ 0#8 := by
    have : ∀ j < 8, BitVec.ofNat 8 (2 ^ j) ≠ 0#8 := by decide
    exact this j hj
  intro h
  exact hbit ((BitVec.xor_right_inj b).1 (h.trans BitVec.xor_zero.symm))

/-- Settles O15: a flipped bit is a changed byte. -/
theorem crcDetectsEverySingleBit : Obligations.CrcDetectsEverySingleBit := fun _ _ _ b hk hj =>
  crcCompute_set_ne hk (flipBit_ne b hj)

/-! ### Zeros after an all-ones word (R113) -/

/-- Zero words leave a zero accumulator at zero. -/
theorem foldl_crcWord_zeros : ∀ n : Nat, (wordsOf (List.replicate n 0)).foldl crcWord 0 = 0
  | 0 | 1 | 2 | 3 => rfl
  | n + 4 => by
    have hword : crcWord 0 (le32 0 0 0 0) = 0 := by decide
    simp only [List.replicate_succ, wordsOf, List.foldl_cons, hword]
    exact foldl_crcWord_zeros n

/-- Settles O16: the first word cancels `INIT`, and everything after it is zero words, the padding too. -/
theorem crcMissesZerosAfterAllOnes : Obligations.CrcMissesZerosAfterAllOnes := by
  intro k
  have hfirst : crcWord crcInit (le32 0xFF 0xFF 0xFF 0xFF) = 0 := by decide
  rw [crcCompute_eq, words, pad4_eq, List.append_assoc, List.replicate_append_replicate]
  calc (wordsOf ([0xFF, 0xFF, 0xFF, 0xFF] ++ List.replicate _ 0)).foldl crcWord crcInit
      = (wordsOf (List.replicate _ 0)).foldl crcWord (crcWord crcInit (le32 0xFF 0xFF 0xFF 0xFF)) := rfl
    _ = 0 := by rw [hfirst, foldl_crcWord_zeros]

end Sys2Proof.Machine

/-! Every operation as a function of states: in a legal state `exec` answers exactly that function's value, which is
legal again, and a run is the functions one after another. Settles O1, O20 to O22, O33 and O41 to O44
(10_state.md R22, R23; 42_receiver.md R140, R141; 43_timer.md R181, R182; 60_exceptions.md R226). -/

namespace Sys2Proof.Machine

/-! ### Operations and runs as functions of states -/

/-- What an operation does to the state, where it does anything. -/
def effectOf : Instr → State → State
  | .crcCompute bytes => State.crcCompute bytes
  | .frame payload => State.frame payload
  | .listen handle => State.listen handle
  | .stop => State.stop
  | .rxb b => State.rxByte b
  | .rxchunk bytes => State.rxChunk bytes
  | .tick => State.tick
  | .ticks n => State.ticks n

/-- What operations do to the state, one after another. -/
def effectsOf (ops : List Instr) (s : State) : State := ops.foldl (fun t i => effectOf i t) s

@[simp] theorem effectsOf_nil (s : State) : effectsOf [] s = s := rfl

@[simp] theorem effectsOf_cons (i : Instr) (ops : List Instr) (s : State) :
    effectsOf (i :: ops) s = effectsOf ops (effectOf i s) := rfl

theorem exec_of_isReceivePath {i : Instr} (h : i.isReceivePath = true) (s : State) :
    exec i s = onLegal s (effectOf i) := by
  cases i with
  | crcCompute | frame => cases h
  | _ => rfl

theorem exec_of_not_isReceivePath {i : Instr} (h : i.isReceivePath = false) (s : State) :
    exec i s = .next (effectOf i s) := by
  cases i with
  | crcCompute | frame => rfl
  | _ => cases h

theorem exec_of_legal {s : State} (hs : s.Legal) (i : Instr) : exec i s = .next (effectOf i s) := by
  cases h : i.isReceivePath with
  | false => exact exec_of_not_isReceivePath h s
  | true => rw [exec_of_isReceivePath h, onLegal_of_legal hs]

theorem effectOf_of_exec {i : Instr} {s t : State} (h : exec i s = .next t) : effectOf i s = t := by
  cases hi : i.isReceivePath with
  | false => exact Host.Outcome.next.inj ((exec_of_not_isReceivePath hi s).symm.trans h)
  | true =>
    rw [exec_of_isReceivePath hi, onLegal_eq_next_iff] at h
    exact h.2

theorem legal_of_exec {i : Instr} {s t : State} (hi : i.isReceivePath = true) (h : exec i s = .next t) :
    s.Legal := by
  rw [exec_of_isReceivePath hi, onLegal_eq_next_iff] at h
  exact h.1

theorem legal_effectOf (i : Instr) {s : State} (hs : s.Legal) : (effectOf i s).Legal := by
  cases i with
  | crcCompute bytes => exact legal_crcCompute bytes hs
  | frame payload => exact legal_frame payload hs
  | listen handle => exact legal_listen handle hs
  | stop => exact legal_stop hs
  | rxb b => exact legal_rxByte b hs
  | rxchunk bytes => exact legal_rxChunk bytes hs
  | tick => exact legal_tick hs
  | ticks n => exact legal_ticks n hs

theorem runOps_of_legal (ops : List Instr) {s : State} (hs : s.Legal) :
    runOps ops s = .next (effectsOf ops s) := by
  induction ops generalizing s with
  | nil => rfl
  | cons i ops ih => rw [runOps_cons_of_next (exec_of_legal hs i), ih (legal_effectOf i hs), effectsOf_cons]

theorem legal_effectsOf (ops : List Instr) {s : State} (hs : s.Legal) : (effectsOf ops s).Legal := by
  induction ops generalizing s with
  | nil => exact hs
  | cons i ops ih => exact ih (legal_effectOf i hs)

/-! ### The invariants (R22, R226) -/

/-- Settles O43: a legal state passes the guard of every operation. -/
theorem everyOperationCompletes : Obligations.EveryOperationCompletes := fun i _ hs =>
  ⟨_, exec_of_legal hs i, legal_effectOf i hs⟩

theorem legal_of_exec_of_legal {i : Instr} {s t : State} (hs : s.Legal) (h : exec i s = .next t) :
    t.Legal :=
  effectOf_of_exec h ▸ legal_effectOf i hs

/-- Settles O41: moving the stream past the operation does not matter to the invariants, and the operation
keeps them. -/
theorem stepKeepsTheInvariants : Obligations.StepKeepsTheInvariants := by
  intro s t hs h
  cases hdecode : decode s.stream with
  | error why => cases (stepRunsTheDecodedOperation.2 s why hdecode).symm.trans h
  | ok found =>
    obtain ⟨i, rest⟩ := found
    have hexec : exec i (s.withStream rest) = .next t :=
      (stepRunsTheDecodedOperation.1 s i rest hdecode).symm.trans h
    exact legal_of_exec_of_legal ((legal_withStream rest).2 hs) hexec

theorem Reachable.legal {s : State} (h : Reachable s) : s.Legal := by
  induction h with
  | reset c hc => exact legal_resetWith c hc
  | exec i s t _ hexec ih => exact legal_of_exec_of_legal ih hexec

/-- Settles O42: reset is legal and every operation keeps legality. -/
theorem reachableStatesMeetTheInvariants : Obligations.ReachableStatesMeetTheInvariants := by
  intro s h
  obtain ⟨hlistening, hassembling, hfits, ⟨hrunning, hstopped⟩, henabled, -⟩ := h.legal
  exact ⟨hlistening, hassembling, Nat.le_of_succ_le_succ hfits, hrunning, hstopped, henabled⟩

/-- Settles O44: every operation of the receive path stands behind the guard. -/
theorem statesOutsideTheInvariantsAreRefused : Obligations.StatesOutsideTheInvariantsAreRefused := by
  intro i s hs hi
  rw [exec_of_isReceivePath hi, onLegal_of_not_legal hs]

/-! ### Reset, `LISTEN`, `STOP` (R23, R140, R141) -/

/-- Settles O1: the values are those of `State.resetWith`, a receiver at rest. -/
theorem resetIsLegalAndIdle : Obligations.ResetIsLegalAndIdle :=
  ⟨rfl, legal_resetWith _ (by decide), fun c hc =>
    ⟨legal_resetWith c hc, rfl, rfl, rfl, rfl, rfl, rfl, rfl, rfl, rfl, rfl⟩⟩

/-- Settles O20: `LISTEN` writes every element but the configuration, the stream and the trace. -/
theorem listenIsTheSoftReset : Obligations.ListenIsTheSoftReset := fun handle _ hs =>
  exec_of_legal hs (.listen handle)

theorem stop_eq (s : State) :
    s.stop = { s with tmrRun := false, tmrCnt := 0, tmrEn := s.tmrEn && !s.cfg.stopSticky } := by
  have hen : (bif s.cfg.stopSticky then false else s.tmrEn) = (s.tmrEn && !s.cfg.stopSticky) := by
    cases s.cfg.stopSticky <;> simp
  rw [← hen]
  rfl

/-- Settles O21: the timer is stopped, and disabled if the parameter says so. -/
theorem stopStopsTheTimerOnly : Obligations.StopStopsTheTimerOnly := by
  intro s hs
  rw [exec_of_legal hs, ← stop_eq]
  rfl

theorem listen_listen (first second : Handle) (s : State) :
    (s.listen first).listen second = s.listen second := rfl

theorem stop_stop (s : State) : s.stop.stop = s.stop := by
  simp [stop_eq]

/-- Settles O22: `LISTEN` overwrites what an earlier one wrote, and `STOP` writes constants or what is
there. -/
theorem listenAndStopAreIdempotent : Obligations.ListenAndStopAreIdempotent := by
  intro first second s hs
  refine ⟨⟨s.listen second, ?_, exec_of_legal hs _⟩, s.stop, ?_, exec_of_legal hs _⟩
  · rw [runOps_of_legal _ hs]
    exact congrArg Host.Outcome.next (listen_listen first second s)
  · rw [runOps_of_legal _ hs]
    exact congrArg Host.Outcome.next (stop_stop s)

/-! ### One tick (R181, R182) -/

/-- Settles O33: a tick under its three cases. -/
theorem tickCountsAndExpires : Obligations.TickCountsAndExpires := by
  intro s hs
  have hexec : exec .tick s = .next s.tick := exec_of_legal hs .tick
  refine ⟨fun hstopped => ?_, fun hrunning hcount => ?_, fun hrunning hcount => ?_⟩
  · rw [hexec, tick_stopped hstopped]
  · rw [hexec, tick_running hrunning hcount]
  · rw [hexec, tick_expiring hrunning hcount.le]
    rfl

end Sys2Proof.Machine

/-! What each operation emits and what it leaves alone. The trace is never read, so the events of an operation
are a function of the state, appended to whatever trace there is. Settles O45 to O47 (10_state.md section 1;
30_encoding.md R83; 20_memory.md R49, R54). -/

namespace Sys2Proof.Machine

/-! ### Events as functions of the state -/

/-- What a received byte emits: the payload, if the byte completes a matching packet and a callback is
installed (R148, R154). -/
def byteEvents (b : Byte) (s : State) : List Event :=
  if s.rxState = .assembling ∧ s.rxBuf.length + 1 = s.rxExpected.toNat ∧
      checksumMatches (s.rxBuf ++ [b]) s.rxExpected.toNat = true ∧ s.cbValid = true then
    [.deliver s.cb (payloadOf (s.rxBuf ++ [b]) s.rxExpected.toNat)]
  else []

/-- What the bytes of a chunk emit, one byte after another. -/
def chunkEvents : List Byte → State → List Event
  | [], _ => []
  | b :: bs, s => byteEvents b s ++ chunkEvents bs (s.rxByte b)

/-- What an operation emits. -/
def eventsOf : Instr → State → List Event
  | .crcCompute bytes, _ => [.retCrc (crcCompute bytes)]
  | .frame payload, _ =>
    if PayloadLegal payload then [.tx (packet payload), .retFrame .ok] else [.retFrame .invalidArgument]
  | .listen _, _ => []
  | .stop, _ => []
  | .rxb b, s => byteEvents b s
  | .rxchunk bytes, s => chunkEvents bytes s
  | .tick, _ => []
  | .ticks _, _ => []

/-- The state with everything replaced that a byte does not read: the timer, the configuration, the trace. -/
def State.withUnread (en run : Bool) (cnt : Nat) (c : Config) (l : List Event) (s : State) : State :=
  { s with tmrEn := en, tmrRun := run, tmrCnt := cnt, cfg := c, trace := l }

/-- What a byte does not read stands afterwards as it stood before, with the byte's events after the trace. -/
theorem acceptByte_withUnread (en run : Bool) (cnt : Nat) (c : Config) (l : List Event) (b : Byte)
    (s : State) : (s.withUnread en run cnt c l).acceptByte b =
      (s.acceptByte b).withUnread en run cnt c (l ++ byteEvents b s) := by
  obtain ⟨hl, hb, h⟩ | ⟨hl, hb, h⟩ | ⟨ha, hb, h⟩ | ⟨ha, hb, h⟩ := acceptByte_cases s b
  · rw [h, acceptByte_noise (s := s.withUnread en run cnt c l) hl hb]
    simp [byteEvents, hl, State.withUnread]
  · rw [h, acceptByte_begin (s := s.withUnread en run cnt c l) hl hb]
    simp [byteEvents, hl, State.withUnread, State.beginPacket]
  · rw [h, acceptByte_append (s := s.withUnread en run cnt c l) ha hb]
    simp [byteEvents, hb, State.withUnread, State.appendByte]
  · rw [h, acceptByte_complete (s := s.withUnread en run cnt c l) ha hb, complete_eq, complete_eq]
    simp [byteEvents, ha, hb, State.withUnread, State.appendByte]

@[simp] theorem acceptByte_trace (s : State) (b : Byte) :
    (s.acceptByte b).trace = s.trace ++ byteEvents b s :=
  congrArg State.trace (acceptByte_withUnread s.tmrEn s.tmrRun s.tmrCnt s.cfg s.trace b s)

/-- What is unread after a byte is what was unread before it, but for the trace. -/
theorem acceptByte_eq_withUnread (b : Byte) (s : State) : s.acceptByte b =
    (s.acceptByte b).withUnread s.tmrEn s.tmrRun s.tmrCnt s.cfg (s.trace ++ byteEvents b s) :=
  acceptByte_withUnread s.tmrEn s.tmrRun s.tmrCnt s.cfg s.trace b s

theorem acceptByte_withTimer (run : Bool) (cnt : Nat) (b : Byte) (s : State) :
    State.acceptByte b { s with tmrRun := run, tmrCnt := cnt } =
      { s.acceptByte b with tmrRun := run, tmrCnt := cnt } := by
  rw [acceptByte_eq_withUnread b s]
  exact acceptByte_withUnread s.tmrEn run cnt s.cfg s.trace b s

/-! ### The trace is not read (R27, R83) -/

theorem rxByte_withTrace (b : Byte) (s : State) (l : List Event) :
    State.rxByte b { s with trace := l } = { s.rxByte b with trace := l ++ byteEvents b s } := by
  have h := acceptByte_withUnread s.tmrEn s.tmrRun s.tmrCnt s.cfg l b s
  rw [State.rxByte, State.rxByte, acceptByte_eq_withUnread b s]
  exact congrArg State.restartTimer h

theorem rxChunk_withTrace (bs : List Byte) (s : State) (l : List Event) :
    State.rxChunk bs { s with trace := l } = { s.rxChunk bs with trace := l ++ chunkEvents bs s } := by
  induction bs generalizing s l with
  | nil => simp [chunkEvents]
  | cons b bs ih =>
    rw [rxChunk_cons, rxByte_withTrace, ih, chunkEvents, rxChunk_cons, List.append_assoc]

/-- Ticks do not read who may start the timer, the configuration or the trace. -/
theorem tick_withUnread (en : Bool) (c : Config) (l : List Event) (s : State) :
    State.tick { s with tmrEn := en, cfg := c, trace := l } =
      { s.tick with tmrEn := en, cfg := c, trace := l } := by
  unfold State.tick
  split
  · dsimp only
    split <;> rfl
  · rfl

theorem ticks_withUnread (en : Bool) (c : Config) (l : List Event) (n : Nat) (s : State) :
    State.ticks n { s with tmrEn := en, cfg := c, trace := l } =
      { s.ticks n with tmrEn := en, cfg := c, trace := l } := by
  induction n generalizing s with
  | zero => rfl
  | succ n ih =>
    rw [State.ticks, State.ticks, tick_withUnread, ih]
    split <;> rfl

theorem ticks_withTrace (n : Nat) (s : State) (l : List Event) :
    State.ticks n { s with trace := l } = { s.ticks n with trace := l } := by
  simpa using ticks_withUnread s.tmrEn s.cfg l n s

/-- `TICK` is `TICKS 1`. -/
theorem effectOf_tick : effectOf .tick = effectOf (.ticks 1) :=
  funext fun s => (ticks_eq_iterate 1 s).symm

/-- An operation of the send path does nothing but emit. -/
theorem effectOf_of_not_isReceivePath {i : Instr} (h : i.isReceivePath = false) (s : State) :
    effectOf i s = { s with trace := s.trace ++ eventsOf i s } := by
  cases i with
  | crcCompute bytes => rfl
  | frame payload =>
    by_cases hp : PayloadLegal payload
    · simp only [effectOf, frame_of_legal s hp, eventsOf, if_pos hp]
    · simp only [effectOf, frame_of_not_legal s hp, eventsOf, if_neg hp]
  | _ => cases h

/-- An operation appends its events to whatever trace there is. -/
theorem effectOf_withTrace (i : Instr) (s : State) (l : List Event) :
    effectOf i { s with trace := l } = { effectOf i s with trace := l ++ eventsOf i s } := by
  cases i with
  | crcCompute | frame => rw [effectOf_of_not_isReceivePath rfl, effectOf_of_not_isReceivePath rfl]; rfl
  | listen | stop => rw [eventsOf, List.append_nil]; rfl
  | rxb b => exact rxByte_withTrace b s l
  | rxchunk bytes => exact rxChunk_withTrace bytes s l
  | tick => rw [effectOf_tick, eventsOf, List.append_nil]; exact ticks_withTrace 1 s l
  | ticks n => rw [eventsOf, List.append_nil]; exact ticks_withTrace n s l

theorem effectOf_trace (i : Instr) (s : State) : (effectOf i s).trace = s.trace ++ eventsOf i s :=
  congrArg State.trace (effectOf_withTrace i s s.trace)

/-- Settles O45: one operation after another, by what its parts leave alone. -/
theorem onlyListedOperationsWrite : Obligations.OnlyListedOperationsWrite := by
  intro i s t h
  obtain rfl := effectOf_of_exec h
  cases i with
  | crcCompute | frame => rw [effectOf_of_not_isReceivePath rfl]; simp
  | listen handle => simp [effectOf, State.listen, Instr.isReceivePath]
  | stop => simp [effectOf, State.stop, Instr.isReceivePath]
  | rxb | rxchunk | tick | ticks => simp [effectOf, Instr.isReceivePath]

/-! ### Where events come from (R83, R49) -/

theorem payloadOf_length {buf : List Byte} {len : Nat} (h : buf.length = len) :
    (payloadOf buf len).length = len - 5 := by
  simp only [payloadOf, slice, trailerBytes, List.length_take, List.length_drop]
  omega

/-- An event the receive path may emit: one payload of a legal size for the installed callback. -/
def IsDeliveryFrom (s : State) (e : Event) : Prop :=
  ∃ payload, e = .deliver s.cb payload ∧ s.cbValid = true ∧ 1 ≤ payload.length ∧ payload.length ≤ 250

theorem byteEvents_cases {s : State} (hs : s.Legal) (b : Byte) :
    byteEvents b s = [] ∨ ∃ e, byteEvents b s = [e] ∧ IsDeliveryFrom s e := by
  unfold byteEvents
  split <;> rename_i h
  · obtain ⟨ha, hlen, -, hcb⟩ := h
    obtain ⟨-, -, hmin, hmax⟩ := rxBuf_of_assembling hs ha
    have hpayload := payloadOf_length (buf := s.rxBuf ++ [b]) (List.length_append.trans hlen)
    exact .inr ⟨_, rfl, _, rfl, hcb, by omega, by omega⟩
  · exact .inl rfl

theorem isDeliveryFrom_of_mem_byteEvents {s : State} (hs : s.Legal) {b : Byte} {e : Event}
    (he : e ∈ byteEvents b s) : IsDeliveryFrom s e := by
  obtain h | ⟨_, h, hdelivery⟩ := byteEvents_cases hs b
  · rw [h] at he
    cases he
  · rw [h, List.mem_singleton] at he
    exact he ▸ hdelivery

theorem isDeliveryFrom_of_mem_chunkEvents {bs : List Byte} {s : State} (hs : s.Legal) {e : Event}
    (he : e ∈ chunkEvents bs s) : IsDeliveryFrom s e := by
  induction bs generalizing s with
  | nil => simp [chunkEvents] at he
  | cons b bs ih =>
    obtain hbyte | hrest := List.mem_append.1 he
    · exact isDeliveryFrom_of_mem_byteEvents hs hbyte
    · simpa [IsDeliveryFrom] using ih (legal_rxByte b hs) hrest

/-- The receive path emits deliveries only, and only for bytes. -/
theorem isDeliveryFrom_of_mem_eventsOf {i : Instr} {s : State} {e : Event} (hi : i.isReceivePath = true)
    (hs : s.Legal) (he : e ∈ eventsOf i s) : IsDeliveryFrom s e ∧ i.feedsBytes = true := by
  cases i with
  | crcCompute | frame => cases hi
  | listen | stop | tick | ticks => cases he
  | rxb b => exact ⟨isDeliveryFrom_of_mem_byteEvents hs he, rfl⟩
  | rxchunk bytes =>
    cases bytes with
    | nil => cases he
    | cons b bs => exact ⟨isDeliveryFrom_of_mem_chunkEvents hs he, rfl⟩

/-- `CRC.COMPUTE` emits `RET(CRC, ..)`, and `FRAME` the packet and `RET(FRAME, ..)`. -/
theorem mem_eventsOf_cases {i : Instr} {s : State} {e : Event} (hi : i.isReceivePath = false)
    (he : e ∈ eventsOf i s) :
    (∃ bytes v, i = .crcCompute bytes ∧ e = .retCrc v) ∨
      (∃ payload, i = .frame payload ∧ (e = .tx (packet payload) ∨ ∃ r, e = .retFrame r)) := by
  cases i with
  | crcCompute bytes => exact .inl ⟨bytes, _, rfl, List.mem_singleton.1 he⟩
  | frame payload =>
    refine .inr ⟨payload, rfl, ?_⟩
    by_cases hp : PayloadLegal payload
    · rw [eventsOf, if_pos hp, List.mem_pair] at he
      exact he.imp_right fun hret => ⟨_, hret⟩
    · rw [eventsOf, if_neg hp, List.mem_singleton] at he
      exact .inr ⟨_, he⟩
  | _ => cases hi

theorem mem_eventsOf_of_exec {i : Instr} {s t : State} {e : Event} (h : exec i s = .next t)
    (he : e ∈ eventsOf i s) :
    (IsDeliveryFrom s e ∧ i.feedsBytes = true) ∨ (∃ bytes v, i = .crcCompute bytes ∧ e = .retCrc v) ∨
      (∃ payload, i = .frame payload ∧ (e = .tx (packet payload) ∨ ∃ r, e = .retFrame r)) := by
  cases hi : i.isReceivePath with
  | true => exact .inl (isDeliveryFrom_of_mem_eventsOf hi (legal_of_exec hi h) he)
  | false => exact .inr (mem_eventsOf_cases hi he)

/-- Settles O46: each kind of event has one source. -/
theorem eventsComeFromTheirOperation : Obligations.EventsComeFromTheirOperation := by
  intro i s t h
  obtain rfl := effectOf_of_exec h
  refine ⟨eventsOf i s, effectOf_trace i s, fun handle payload he => ?_, fun pkt he => ?_,
    fun r he => ?_, fun v he => ?_, fun b hb => ?_⟩
  · obtain ⟨⟨_, heq, hcb, hmin, hmax⟩, hfeeds⟩ | ⟨_, _, -, heq⟩ | ⟨_, -, heq | ⟨_, heq⟩⟩ :=
      mem_eventsOf_of_exec h he <;> cases heq
    exact ⟨rfl, hcb, hmin, hmax, hfeeds⟩
  · obtain ⟨⟨_, heq, -⟩, -⟩ | ⟨_, _, -, heq⟩ | ⟨sent, hframe, heq | ⟨_, heq⟩⟩ :=
      mem_eventsOf_of_exec h he <;> cases heq
    exact ⟨sent, hframe, rfl⟩
  · obtain ⟨⟨_, heq, -⟩, -⟩ | ⟨_, _, -, heq⟩ | ⟨sent, hframe, heq | ⟨_, heq⟩⟩ :=
      mem_eventsOf_of_exec h he <;> cases heq
    exact ⟨sent, hframe⟩
  · obtain ⟨⟨_, heq, -⟩, -⟩ | ⟨bytes, _, hcrc, heq⟩ | ⟨_, -, heq | ⟨_, heq⟩⟩ :=
      mem_eventsOf_of_exec h he <;> cases heq
    exact ⟨bytes, hcrc⟩
  · subst hb
    obtain hnone | ⟨_, hone, -⟩ := byteEvents_cases (legal_of_exec rfl h) b
    · simp [eventsOf, hnone]
    · simp [eventsOf, hone]

/-! ### The two paths commute (R54) -/

theorem isDelivery_of_mem_eventsOf {i : Instr} {s : State} {e : Event} (hs : s.Legal)
    (he : e ∈ eventsOf i s) : e.isDelivery = i.isReceivePath := by
  cases hi : i.isReceivePath with
  | true =>
    obtain ⟨⟨_, rfl, -⟩, -⟩ := isDeliveryFrom_of_mem_eventsOf hi hs he
    rfl
  | false =>
    obtain ⟨_, _, -, rfl⟩ | ⟨_, -, rfl | ⟨_, rfl⟩⟩ := mem_eventsOf_cases hi he <;> rfl

theorem eventsOf_of_not_isReceivePath {i : Instr} (h : i.isReceivePath = false) (s t : State) :
    eventsOf i s = eventsOf i t := by
  cases i with
  | crcCompute | frame => rfl
  | _ => cases h

/-- Events of the two paths, merged in either order, are the same events of each path. -/
theorem filter_append_comm {p : Event → Bool} {es ds : List Event}
    (h : es.filter p = [] ∨ ds.filter p = []) (l : List Event) :
    (l ++ es ++ ds).filter p = (l ++ ds ++ es).filter p := by
  obtain h | h := h <;> simp [List.filter_append, h]

/-- Settles O47: in either order the receive-path operation works on the same state but for the trace, and
the events of the two are of different kinds. -/
theorem sendAndReceivePathsCommute : Obligations.SendAndReceivePathsCommute := by
  intro i j s hs hi hj
  have hsend : ∀ e ∈ eventsOf i s, e.isDelivery = false := fun e he =>
    (isDelivery_of_mem_eventsOf hs he).trans hi
  have hreceive : ∀ e ∈ eventsOf j s, e.isDelivery = true := fun e he =>
    (isDelivery_of_mem_eventsOf hs he).trans hj
  have hfirst : effectsOf [i, j] s =
      { effectOf j s with trace := s.trace ++ eventsOf i s ++ eventsOf j s } := by
    rw [effectsOf_cons, effectsOf_cons, effectsOf_nil, effectOf_of_not_isReceivePath hi, effectOf_withTrace]
  have hsecond : effectsOf [j, i] s =
      { effectOf j s with trace := s.trace ++ eventsOf j s ++ eventsOf i s } := by
    rw [effectsOf_cons, effectsOf_cons, effectsOf_nil, effectOf_of_not_isReceivePath hi, effectOf_trace,
      eventsOf_of_not_isReceivePath hi _ s]
  refine ⟨_, _, runOps_of_legal _ hs, runOps_of_legal _ hs, ?_, ?_, ?_⟩
  · rw [hfirst, hsecond]
  · rw [hfirst, hsecond]
    exact filter_append_comm (.inl (by simpa using hsend)) s.trace
  · rw [hfirst, hsecond]
    exact filter_append_comm (.inr (by simpa using hreceive)) s.trace

end Sys2Proof.Machine

/-! A received byte whole, and the bytes of a candidate packet together: the timer apart, which the last byte
restarts, they fill the buffer and complete it once. So a packet is delivered and a changed one is dropped.
Settles O19, O26, O27, O29 to O32 (41_framer.md R129; 42_receiver.md R142, R152, R156, R157). -/

namespace Sys2Proof.Machine

/-! ### The packet that is sent (R129) -/

theorem lengthByte_toNat {payload : List Byte} (h : payload.length ≤ 250) :
    (lengthByte payload).toNat = payload.length + 5 := by
  rw [lengthByte, overhead, BitVec.toNat_ofNat]
  omega

/-- Settles O19: the packet is its head, which begins with the length byte, and the head's checksum. -/
theorem sentPacketIsWellFormed : Obligations.SentPacketIsWellFormed := by
  intro payload s hmin hmax
  refine ⟨packet payload, exec_frame_of_legal ⟨hmin, hmax⟩ s, packet_length payload, ?_, ?_, ?_⟩
  · rw [packet_length]
    exact congrArg some (lengthByte_toNat hmax)
  · exact List.take_left
  · rw [packet_drop_head, packet_take_head, le32?_bytesLe]

/-! ### One byte, every element stated (R142 to R151) -/

/-- Where the invariants hold, the timer runs after a byte exactly if it is enabled. -/
theorem restartTimer_of_legal {s : State} (hs : s.Legal) : s.restartTimer =
    { s with tmrRun := s.tmrEn, tmrCnt := if s.tmrEn then s.cfg.tInact else 0 } := by
  obtain ⟨-, -, -, ⟨-, hstopped⟩, henabled, -⟩ := hs
  cases hen : s.tmrEn with
  | true => simp [State.restartTimer, hen]
  | false =>
    have hrun : s.tmrRun = false := Bool.eq_false_iff.2 fun hr => by simp [henabled hr] at hen
    simp [State.restartTimer, hen, hrun, hstopped hrun]

theorem rxByte_of_legal {s : State} (hs : s.Legal) (b : Byte) : s.rxByte b =
    { s.acceptByte b with tmrRun := s.tmrEn, tmrCnt := if s.tmrEn then s.cfg.tInact else 0 } := by
  rw [State.rxByte, restartTimer_of_legal (legal_acceptByte b hs)]
  simp

/-- Settles O26: the four cases of a byte, then the restart. -/
theorem rxbTransitions : Obligations.RxbTransitions := by
  intro b s hs
  rw [exec_rxb_of_legal hs, rxByte_of_legal hs]
  refine ⟨fun hl hb => ?_, fun hl hb => ?_, fun ha hb => ?_, fun ha hb => ?_⟩
  · rw [acceptByte_noise hl hb]
  · rw [acceptByte_begin hl (Nat.not_lt.2 hb)]
    rfl
  · rw [acceptByte_append ha hb.ne]
    rfl
  · rw [acceptByte_complete ha hb, complete_eq]
    rfl

/-! ### Chunks as bytes (R152) -/

theorem effectsOf_map_rxb (bytes : List Byte) (s : State) :
    effectsOf (bytes.map .rxb) s = s.rxChunk bytes := by
  induction bytes generalizing s with
  | nil => rfl
  | cons b bytes ih => exact ih (s.rxByte b)

theorem runOps_map_rxb {s : State} (hs : s.Legal) (bytes : List Byte) :
    runOps (bytes.map .rxb) s = .next (s.rxChunk bytes) := by
  rw [runOps_of_legal _ hs, effectsOf_map_rxb]

/-- Settles O27: a chunk is its bytes by definition. -/
theorem rxchunkIsItsBytes : Obligations.RxchunkIsItsBytes := fun bytes s hs =>
  ⟨s.rxChunk bytes, exec_rxchunk_of_legal hs bytes, runOps_map_rxb hs bytes, fun h => h ▸ rxChunk_nil s⟩

/-! ### The bytes of a chunk without their restarts -/

/-- What bytes do, one after another, before the timer is restarted. -/
def acceptBytes (bs : List Byte) (s : State) : State := bs.foldl (fun t b => t.acceptByte b) s

theorem acceptBytes_cons (b : Byte) (bs : List Byte) (s : State) :
    acceptBytes (b :: bs) s = acceptBytes bs (s.acceptByte b) := rfl

theorem restartTimer_restartTimer (s : State) : s.restartTimer.restartTimer = s.restartTimer := by
  cases hen : s.tmrEn <;> simp [State.restartTimer, hen]

theorem acceptByte_restartTimer (b : Byte) (s : State) :
    s.restartTimer.acceptByte b = (s.acceptByte b).restartTimer := by
  refine (acceptByte_withTimer _ _ b s).trans ?_
  simp [State.restartTimer]

theorem acceptBytes_restartTimer (bs : List Byte) (s : State) :
    acceptBytes bs s.restartTimer = (acceptBytes bs s).restartTimer := by
  induction bs generalizing s with
  | nil => rfl
  | cons b bs ih => rw [acceptBytes_cons, acceptByte_restartTimer, ih, acceptBytes_cons]

/-- Of the restarts of a chunk that is not empty the last one is enough. -/
theorem rxChunk_cons_eq (b : Byte) (bs : List Byte) (s : State) :
    s.rxChunk (b :: bs) = (acceptBytes (b :: bs) s).restartTimer := by
  induction bs generalizing b s with
  | nil => rfl
  | cons c bs ih =>
    rw [rxChunk_cons, ih, State.rxByte, acceptBytes_restartTimer, restartTimer_restartTimer, acceptBytes_cons b]

theorem legal_acceptBytes (bs : List Byte) {s : State} (hs : s.Legal) : (acceptBytes bs s).Legal := by
  induction bs generalizing s with
  | nil => exact hs
  | cons b bs ih => exact ih (legal_acceptByte b hs)

/-! ### A packet begun and completed (R146 to R150, R156) -/

/-- The bytes still missing fill the buffer and complete it. -/
theorem acceptBytes_missing (bs : List Byte) {s : State} (ha : s.rxState = .assembling)
    (hlt : s.rxBuf.length < s.rxExpected.toNat)
    (hlen : s.rxBuf.length + bs.length = s.rxExpected.toNat) :
    acceptBytes bs s = State.complete { s with rxBuf := s.rxBuf ++ bs } := by
  induction bs generalizing s with
  | nil => exact absurd hlen hlt.ne
  | cons b bs ih =>
    rw [List.length_cons] at hlen
    rw [acceptBytes_cons]
    cases bs with
    | nil => exact acceptByte_complete ha hlen
    | cons c bs =>
      rw [List.length_cons] at hlen
      have hbuf : (s.appendByte b).rxBuf.length = s.rxBuf.length + 1 := by simp
      rw [acceptByte_append ha (by omega), ih (s := s.appendByte b) ha]
      · simp [State.appendByte]
      · rw [hbuf, appendByte_rxExpected]
        omega
      · rw [hbuf, appendByte_rxExpected, List.length_cons]
        omega

/-- A length byte and as many bytes as it declares fill the buffer and complete it. -/
theorem acceptBytes_candidate {s : State} (hl : s.rxState = .listening) {first : Byte} {body : List Byte}
    (hfirst : 6 ≤ first.toNat) (hlen : body.length + 1 = first.toNat) :
    acceptBytes (first :: body) s = State.complete { s with
      rxState := .assembling, rxBuf := first :: body, rxExpected := first } := by
  have hlt : 1 < first.toNat := by omega
  have hfull : 1 + body.length = first.toNat := by omega
  rw [acceptBytes_cons, acceptByte_begin hl (Nat.not_lt.2 hfirst)]
  exact acceptBytes_missing body rfl hlt hfull

/-- A candidate packet, whatever its bytes: the receiver ends where it began, and the checksum decides over
the one delivery. -/
theorem rxChunk_candidate {s : State} (hs : s.Legal) (hl : s.rxState = .listening) {first : Byte}
    {body : List Byte} (hfirst : 6 ≤ first.toNat) (hlen : body.length + 1 = first.toNat) :
    s.rxChunk (first :: body) = { s with
      rxExpected := first
      tmrRun := s.tmrEn, tmrCnt := if s.tmrEn then s.cfg.tInact else 0
      trace := s.trace ++
        if checksumMatches (first :: body) first.toNat = true ∧ s.cbValid = true then
          [.deliver s.cb (payloadOf (first :: body) first.toNat)]
        else [] } := by
  rw [rxChunk_cons_eq, restartTimer_of_legal (legal_acceptBytes _ hs), acceptBytes_candidate hl hfirst hlen,
    complete_eq, hl, hs.1 hl]

theorem checksumMatches_iff {buf : List Byte} {len : Nat} (h : buf.length = len) :
    checksumMatches buf len = true ↔
      le32? (buf.drop (len - 4)) = some (crcCompute (buf.take (len - 4))) := by
  have htrailer : trailerOf buf len = buf.drop (len - 4) := by
    refine List.take_of_length_le ?_
    rw [List.length_drop, h, trailerBytes]
  have hhead : headOf buf len = buf.take (len - 4) := rfl
  rw [checksumMatches, beq_iff_eq, htrailer, hhead]

theorem payloadOf_eq (buf : List Byte) (len : Nat) : payloadOf buf len = (buf.take (len - 4)).drop 1 :=
  List.drop_take.symm

/-- Settles O29: the slices of the whole buffer, written as what stands before and after index L - 4. -/
theorem candidatePacketOutcome : Obligations.CandidatePacketOutcome := by
  intro first body s hs hl hfirst hlen
  rw [exec_rxchunk_of_legal hs, rxChunk_candidate hs hl hfirst hlen]
  simp only [checksumMatches_iff (buf := first :: body) hlen, payloadOf_eq]

/-! ### A packet is delivered (R152, R156) -/

/-- A sent packet has the form of a candidate. -/
theorem packet_eq_cons (payload : List Byte) : packet payload =
    lengthByte payload :: (payload ++ bytesLe (crcCompute (framerHead payload))) := rfl

theorem checksumMatches_packet (payload : List Byte) :
    checksumMatches (packet payload) (payload.length + 5) = true :=
  (checksumMatches_append_bytesLe (framerHead payload) _).2 rfl

theorem payloadOf_packet (payload : List Byte) : payloadOf (packet payload) (payload.length + 5) = payload :=
  payloadOf_append _ _ _

theorem rxChunk_packet {s : State} (hs : s.Legal) (hl : s.rxState = .listening) (hcb : s.cbValid = true)
    {payload : List Byte} (hmin : 1 ≤ payload.length) (hmax : payload.length ≤ 250) :
    s.rxChunk (packet payload) = { s with
      rxExpected := lengthByte payload
      tmrRun := s.tmrEn, tmrCnt := if s.tmrEn then s.cfg.tInact else 0
      trace := s.trace ++ [.deliver s.cb payload] } := by
  have hlength := lengthByte_toNat hmax
  have hfirst : 6 ≤ (lengthByte payload).toNat := by omega
  have hbody : (payload ++ bytesLe (crcCompute (framerHead payload))).length + 1 =
      (lengthByte payload).toNat := by
    rw [List.length_append, bytesLe_length, hlength]
  rw [packet_eq_cons, rxChunk_candidate hs hl hfirst hbody, ← packet_eq_cons, hlength,
    if_pos (And.intro (checksumMatches_packet payload) hcb), payloadOf_packet]

theorem position_of_listening {s : State} (hs : s.Legal) (hl : s.rxState = .listening) :
    s.position = (.listening, 0) := by
  rw [State.position, hl, hs.1 hl, List.length_nil]

/-- Settles O30: byte by byte is as one chunk. -/
theorem framedPayloadIsDelivered : Obligations.FramedPayloadIsDelivered := by
  intro payload s hs hl hcb hmin hmax
  refine ⟨packet payload, _, exec_frame_of_legal ⟨hmin, hmax⟩ s, runOps_map_rxb hs _, ?_, ?_⟩
  · rw [rxChunk_packet hs hl hcb hmin hmax]
  · refine position_of_listening (legal_rxChunk _ hs) ?_
    rw [rxChunk_packet hs hl hcb hmin hmax]
    exact hl

/-- Packet after packet, each begins where the one before left the receiver. -/
theorem rxChunk_flatMap_packet (payloads : List (List Byte)) {s : State} (hs : s.Legal)
    (hl : s.rxState = .listening) (hcb : s.cbValid = true)
    (hsizes : ∀ p ∈ payloads, 1 ≤ p.length ∧ p.length ≤ 250) :
    (s.rxChunk (payloads.flatMap packet)).trace = s.trace ++ payloads.map (.deliver s.cb) ∧
      (s.rxChunk (payloads.flatMap packet)).rxState = .listening := by
  induction payloads generalizing s with
  | nil => exact ⟨(List.append_nil _).symm, hl⟩
  | cons p payloads ih =>
    obtain ⟨⟨hmin, hmax⟩, hrest⟩ := List.forall_mem_cons.1 hsizes
    have hfirst := rxChunk_packet hs hl hcb hmin hmax
    have hlegal := legal_rxChunk (packet p) hs
    rw [List.flatMap_cons, rxChunk_append, List.map_cons, List.append_cons]
    rw [hfirst] at hlegal ⊢
    exact ih hlegal hl hcb hrest

/-- Settles O31: by induction on the payloads. -/
theorem backToBackPacketsAreDelivered : Obligations.BackToBackPacketsAreDelivered := by
  intro payloads s hs hl hcb hsizes
  obtain ⟨htrace, hlistening⟩ := rxChunk_flatMap_packet payloads hs hl hcb hsizes
  exact ⟨_, exec_rxchunk_of_legal hs _, htrace,
    position_of_listening (legal_rxChunk _ hs) hlistening⟩

/-! ### A changed packet is dropped (R157) -/

/-- A changed byte of the head changes its checksum; a changed byte of the trailer changes what the checksum
is compared with. -/
theorem not_checksumMatches_packet_set {payload : List Byte} {k : Nat} {b x : Byte}
    (hk : (packet payload)[k]? = some b) (hx : x ≠ b) :
    ¬ checksumMatches ((packet payload).set k x) (payload.length + 5) = true := by
  intro hmatch
  rw [packet] at hk hmatch
  by_cases hhead : k < (framerHead payload).length
  · rw [List.getElem?_append_left hhead] at hk
    rw [List.set_append_left _ _ hhead] at hmatch
    have hlength : payload.length + 5 = ((framerHead payload).set k x).length + 4 := by simp
    rw [hlength, checksumMatches_append_bytesLe] at hmatch
    exact crcCompute_set_ne hk hx hmatch.symm
  · have hge := Nat.not_lt.1 hhead
    rw [List.getElem?_append_right hge] at hk
    rw [List.set_append_right _ _ hge] at hmatch
    have hsame := (le32?_eq_some_iff _ _).1
      ((checksumMatches_append (head := framerHead payload) (by simp)).1 hmatch)
    obtain ⟨hlt, -⟩ := List.getElem?_eq_some_iff.1 hk
    rw [hsame, List.getElem?_set_self hlt] at hk
    exact hx (Option.some.inj hk)

/-- Settles O32: the length byte stands, so the changed packet is a candidate of its length, and a mismatch. -/
theorem singleBitCorruptionIsDropped : Obligations.SingleBitCorruptionIsDropped := by
  intro payload k j b s hs hl hmin hmax hk hbyte hj
  have hmismatch := not_checksumMatches_packet_set hbyte (flipBit_ne b hj)
  obtain ⟨k, rfl⟩ := Nat.exists_eq_add_of_le' hk
  generalize b ^^^ BitVec.ofNat 8 (2 ^ j) = x at hmismatch ⊢
  have hlength := lengthByte_toNat hmax
  have hfirst : 6 ≤ (lengthByte payload).toNat := by omega
  have hbody : ((payload ++ bytesLe (crcCompute (framerHead payload))).set k x).length + 1 =
      (lengthByte payload).toNat := by
    rw [List.length_set, List.length_append, bytesLe_length, hlength]
  rw [packet_eq_cons, List.set_cons_succ] at hmismatch ⊢
  have hchunk := rxChunk_candidate hs hl hfirst hbody
  rw [hlength, if_neg (mt And.left hmismatch), List.append_nil] at hchunk
  refine ⟨_, exec_rxchunk_of_legal hs _, ?_, position_of_listening (legal_rxChunk _ hs) ?_⟩
  · rw [hchunk]
  · rw [hchunk]
    exact hl

end Sys2Proof.Machine

/-! The inactivity timer over many ticks: `TICKS` is repeated `TICK`, the expiry after a byte, what it does to a
partial packet, and that a stopped timer stays stopped. Settles O34 to O38 and O48 (43_timer.md R181 to R192;
60_exceptions.md R229). -/

namespace Sys2Proof.Machine

/-! ### Many ticks (R186, R190) -/

theorem effectsOf_replicate_tick (n : Nat) (s : State) :
    effectsOf (List.replicate n .tick) s = s.ticks n := by
  induction n generalizing s with
  | zero => rfl
  | succ n ih =>
    rw [List.replicate_succ, effectsOf_cons, ih, ticks_eq_iterate, ticks_eq_iterate,
      Function.iterate_succ_apply]
    rfl

/-- Settles O34: passing over the ticks of a stopped timer is issuing them. -/
theorem ticksIsRepeatedTick : Obligations.TicksIsRepeatedTick := fun n s hs =>
  ⟨s.ticks n, exec_of_legal hs (.ticks n),
    (runOps_of_legal _ hs).trans (congrArg Host.Outcome.next (effectsOf_replicate_tick n s))⟩

/-- Settles O35: a byte leaves an enabled timer running with a count of `T_INACT`. -/
theorem timerExpiresOnTheLastTick : Obligations.TimerExpiresOnTheLastTick := by
  intro b n s hs hen
  have ⟨_, _, _, _, _, hcfg⟩ := hs
  have hrun : (s.rxByte b).tmrRun = true := by simp [hen]
  have hcnt : (s.rxByte b).tmrCnt = s.cfg.tInact := by simp [hen]
  have hticks : exec (.ticks n) (s.rxByte b) = .next ((s.rxByte b).ticks n) :=
    exec_of_legal (legal_rxByte b hs) (.ticks n)
  refine ⟨s.rxByte b, exec_rxb_of_legal hs b, fun hn => ?_, fun hn => ?_⟩
  · rw [hticks, ticks_before_expiry hrun n (by omega), hcnt]
  · rw [hticks, ticks_expiry hrun (hcnt.symm ▸ hcfg) n (by omega)]
    rfl

/-- In a legal state `T_INACT` ticks or more of a running timer end in the timeout, whatever its count. -/
theorem ticks_expiry_of_legal {s : State} (hs : s.Legal) (hrun : s.tmrRun = true) {n : Nat}
    (hn : s.cfg.tInact ≤ n) : s.ticks n = s.stopTimer.returnToListening := by
  obtain ⟨-, -, -, ⟨hrange, -⟩, -⟩ := hs
  obtain ⟨hmin, hmax⟩ := hrange hrun
  exact ticks_expiry hrun hmin n (hmax.trans hn)

/-- Settles O36: the timeout empties the buffer, and the packet meets a receiver that listens. -/
theorem stalePartialPacketIsAbandoned : Obligations.StalePartialPacketIsAbandoned := by
  intro payload n s hs hrun hcb hn hmin hmax
  have hruns : effectsOf [.ticks n, .rxchunk (packet payload)] s =
      s.stopTimer.returnToListening.rxChunk (packet payload) :=
    congrArg (State.rxChunk (packet payload)) (ticks_expiry_of_legal hs hrun hn)
  have hlegal := legal_timeout hs
  have hpacket := rxChunk_packet hlegal rfl hcb hmin hmax
  refine ⟨_, runOps_of_legal _ hs, ?_, ?_⟩
  · rw [hruns, hpacket]
    rfl
  · rw [hruns]
    refine position_of_listening (legal_rxChunk _ hlegal) ?_
    rw [hpacket]
    rfl

/-! ### A stopped timer (R188) -/

/-- Where nothing can restart the timer nothing touches the receiver. -/
theorem effectOf_of_stopped {i : Instr} {s : State} (hi : ∀ h, i ≠ .listen h)
    (hfeeds : i.feedsBytes = false) (hstopped : s.tmrRun = false) :
    (effectOf i s).tmrRun = false ∧ (effectOf i s).rxState = s.rxState ∧
      (effectOf i s).rxBuf = s.rxBuf ∧ (effectOf i s).rxExpected = s.rxExpected := by
  cases i with
  | crcCompute | frame =>
    rw [effectOf_of_not_isReceivePath rfl]
    exact ⟨hstopped, rfl, rfl, rfl⟩
  | listen handle => exact absurd rfl (hi handle)
  | stop => exact ⟨rfl, rfl, rfl, rfl⟩
  | rxb b => cases hfeeds
  | rxchunk bytes =>
    cases bytes with
    | nil => exact ⟨hstopped, rfl, rfl, rfl⟩
    | cons b bs => cases hfeeds
  | tick =>
    rw [effectOf, tick_stopped hstopped]
    exact ⟨hstopped, rfl, rfl, rfl⟩
  | ticks n =>
    rw [effectOf, ticks_stopped hstopped]
    exact ⟨hstopped, rfl, rfl, rfl⟩

theorem effectsOf_of_stopped {ops : List Instr} {s : State} (hops : ∀ i ∈ ops, ∀ h, i ≠ .listen h)
    (hfeeds : ∀ i ∈ ops, i.feedsBytes = false) (hstopped : s.tmrRun = false) :
    (effectsOf ops s).tmrRun = false ∧ (effectsOf ops s).rxState = s.rxState ∧
      (effectsOf ops s).rxBuf = s.rxBuf ∧ (effectsOf ops s).rxExpected = s.rxExpected := by
  induction ops generalizing s with
  | nil => exact ⟨hstopped, rfl, rfl, rfl⟩
  | cons i ops ih =>
    obtain ⟨hi, hops⟩ := List.forall_mem_cons.1 hops
    obtain ⟨hif, hfeeds⟩ := List.forall_mem_cons.1 hfeeds
    obtain ⟨hrun, hstate, hbuf, hexpected⟩ := effectOf_of_stopped hi hif hstopped
    obtain ⟨hrun', hstate', hbuf', hexpected'⟩ := ih hops hfeeds hrun
    exact ⟨hrun', hstate'.trans hstate, hbuf'.trans hbuf, hexpected'.trans hexpected⟩

/-- A disabled timer stays disabled until a `LISTEN`. -/
theorem effectsOf_tmrEn_eq_false {ops : List Instr} {s : State} (hs : s.Legal)
    (hops : ∀ i ∈ ops, ∀ h, i ≠ .listen h) (hen : s.tmrEn = false) : (effectsOf ops s).tmrEn = false := by
  induction ops generalizing s with
  | nil => exact hen
  | cons i ops ih =>
    obtain ⟨hi, hops⟩ := List.forall_mem_cons.1 hops
    refine ih (legal_effectOf i hs) hops ?_
    by_cases hstop : i = .stop
    · have hdisabled : s.stop.tmrEn = false := by rw [stop_eq, hen, Bool.false_and]
      rwa [hstop]
    · obtain ⟨-, -, -, hframe, -⟩ := onlyListedOperationsWrite i s _ (exec_of_legal hs i)
      exact (hframe hi hstop).trans hen

theorem tmrRun_eq_false_of_disabled {s : State} (hs : s.Legal) (hen : s.tmrEn = false) :
    s.tmrRun = false := by
  obtain ⟨-, -, -, -, henabled, -⟩ := hs
  exact Bool.eq_false_iff.2 fun hrun => absurd (henabled hrun) (by simp [hen])

/-- Settles O37: after `STOP` the timer is stopped, and with `P_STOP_STICKY` disabled. -/
theorem noTimeoutAfterStop : Obligations.NoTimeoutAfterStop := by
  intro ops s hs hops
  have hrun := runOps_of_legal (.stop :: ops) hs
  refine ⟨fun hfeeds => ⟨_, hrun, effectsOf_of_stopped (s := s.stop) hops hfeeds rfl⟩,
    fun hsticky => ⟨_, hrun, ?_⟩⟩
  refine tmrRun_eq_false_of_disabled (legal_effectsOf _ hs) ?_
  refine effectsOf_tmrEn_eq_false (s := s.stop) (legal_stop hs) hops ?_
  rw [stop_eq, hsticky, Bool.not_true, Bool.and_false]

/-! ### Out of `Assembling` (R191) -/

/-- The bytes that are missing bring the receiver back to `Listening`, whatever they are. -/
theorem rxChunk_missing_rxState {s : State} (ha : s.rxState = .assembling)
    (hlt : s.rxBuf.length < s.rxExpected.toNat) {bytes : List Byte}
    (hlen : bytes.length = s.rxExpected.toNat - s.rxBuf.length) :
    (s.rxChunk bytes).rxState = .listening := by
  cases bytes with
  | nil =>
    rw [List.length_nil] at hlen
    omega
  | cons b bs =>
    rw [rxChunk_cons_eq, acceptBytes_missing _ ha hlt (by omega), complete_eq]
    rfl

/-- Settles O38: the timeout and the completion both end in `Listening`, and a partial packet holds at least
one of at most 255 bytes. -/
theorem assemblingIsBounded : Obligations.AssemblingIsBounded := by
  intro s hs ha
  have ⟨_, hpartial, _⟩ := hs
  obtain ⟨hnonempty, hlt, -, -, hmax⟩ := hpartial ha
  refine ⟨fun hrun => ⟨_, exec_of_legal hs _, ?_⟩, ?_, fun bytes hlen => ⟨_, exec_of_legal hs _, ?_⟩⟩
  · exact congrArg State.position (ticks_expiry_of_legal hs hrun le_rfl)
  · rw [lenMax] at hmax
    omega
  · exact position_of_listening (legal_rxChunk bytes hs) (rxChunk_missing_rxState ha hlt hlen)

/-! ### A byte and an expiry together (R229) -/

/-- Settles O48: the expiry first leaves the byte a receiver that listens; the byte first restarts the
timer. -/
theorem byteAndExpiryRunInEitherOrder : Obligations.ByteAndExpiryRunInEitherOrder := by
  intro b s hs ha hrun hcnt hinact hb hlen
  have ⟨_, _, _, _, henabled, _⟩ := hs
  refine ⟨⟨_, runOps_of_legal _ hs, ?_⟩, _, runOps_of_legal _ hs, ?_⟩
  · have htickFirst : effectsOf [.tick, .rxb b] s =
        (s.stopTimer.returnToListening.beginPacket b).restartTimer := by
      simp only [effectsOf_cons, effectsOf_nil, effectOf]
      rw [tick_expiring hrun hcnt.le, rxByte_begin rfl hb]
    rw [htickFirst]
    exact ⟨rfl, rfl, rfl⟩
  · have hafter : s.rxByte b = (s.appendByte b).restartTimer := by
      rw [State.rxByte, acceptByte_append ha hlen.ne]
    have hrunning : (s.rxByte b).tmrRun = true := by simp [hrun]
    have hrestarted : (s.rxByte b).tmrCnt = s.cfg.tInact := by simp [henabled hrun]
    have hbyteFirst : effectsOf [.rxb b, .tick] s =
        { (s.appendByte b).restartTimer with tmrCnt := s.cfg.tInact - 1 } := by
      simp only [effectsOf_cons, effectsOf_nil, effectOf]
      rw [tick_running hrunning (hrestarted.symm ▸ hinact), hrestarted, hafter]
    rw [hbyteFirst]
    exact ⟨ha, rfl, rfl, by simp [hrun], rfl⟩

end Sys2Proof.Machine

/-! The conditions an operation raises, and the order in which a drain frames its commands. Settles O49 and O52
(60_exceptions.md R220, R221, R229, R230; 50_host_command_layer.md R203). -/

namespace Sys2Proof.Machine

/-! ### Conditions (R220 to R224) -/

theorem conditionsOf_frame_iff (payload : List Byte) (s : State) :
    conditionsOf (.frame payload) s = [.invalidArgument] ↔ ¬ PayloadLegal payload := by
  by_cases h : PayloadLegal payload <;> simp [conditionsOf, h]

theorem exec_frame_rejects_iff (payload : List Byte) (s : State) :
    exec (.frame payload) s = .next { s with trace := s.trace ++ [.retFrame .invalidArgument] } ↔
      ¬ PayloadLegal payload := by
  refine ⟨fun hreject h => ?_, fun h => exec_frame_of_not_legal h s⟩
  have heq := Host.Outcome.next.inj ((exec_frame_of_legal h s).symm.trans hreject)
  have hevents := List.append_cancel_left (congrArg State.trace heq)
  exact absurd (congrArg List.length hevents) (by simp)

/-- A byte raises a condition only where it emits nothing and ends in `Listening`. -/
theorem byteConditions_cases (b : Byte) (s : State) : s.byteConditions b = [] ∨
    ∃ c, s.byteConditions b = [c] ∧ c.surfaced = false ∧ byteEvents b s = [] ∧
      (s.rxByte b).rxState = .listening := by
  unfold State.byteConditions
  cases hl : s.rxState with
  | listening =>
    by_cases hb : b.toNat < lenMin
    · refine .inr ⟨.noiseDrop, if_pos hb, rfl, by simp [byteEvents, hl], ?_⟩
      rwa [rxByte_noise hl hb]
    · exact .inl (if_neg hb)
  | assembling =>
    by_cases hdrop : (s.rxBuf ++ [b]).length = s.rxExpected.toNat ∧
        checksumMatches (s.rxBuf ++ [b]) s.rxExpected.toNat = false
    · refine .inr ⟨.crcDrop, if_pos hdrop, rfl, by simp [byteEvents, hdrop.2], ?_⟩
      rw [State.rxByte, acceptByte_complete hl (List.length_append.symm.trans hdrop.1), complete_eq]
      rfl
    · exact .inl (if_neg hdrop)

/-- A tick raises a condition only where it ends in `Listening`. -/
theorem tickConditions_cases (s : State) : s.tickConditions = [] ∨
    ∃ c, s.tickConditions = [c] ∧ c.surfaced = false ∧ s.tick.rxState = .listening := by
  unfold State.tickConditions
  by_cases h : s.tmrRun = true ∧ s.tmrCnt = 1
  · refine .inr ⟨.timeout, if_pos h, rfl, ?_⟩
    rw [tick_expiring h.1 h.2.le]
    rfl
  · exact .inl (if_neg h)

theorem conditionsOf_cases {i : Instr} (hi : (∃ b, i = .rxb b) ∨ i = .tick) (s : State) :
    conditionsOf i s = [] ∨ ∃ c, conditionsOf i s = [c] ∧ c.surfaced = false ∧ eventsOf i s = [] ∧
      (effectOf i s).rxState = .listening := by
  obtain ⟨b, rfl⟩ | rfl := hi
  · exact byteConditions_cases b s
  · obtain hnone | ⟨c, hone, hsilent, hlistening⟩ := tickConditions_cases s
    · exact .inl hnone
    · exact .inr ⟨c, hone, hsilent, rfl, hlistening⟩

/-- Settles O49: `FRAME` by the size of its payload, a byte and a tick by the one condition they may raise. -/
theorem conditionsAreSilentAndEndListening : Obligations.ConditionsAreSilentAndEndListening := by
  refine ⟨fun payload s => (conditionsOf_frame_iff payload s).trans (exec_frame_rejects_iff payload s).symm,
    fun i s hs hi => ?_⟩
  obtain hnone | ⟨c, hone, hsilent, hevents, hlistening⟩ := conditionsOf_cases hi s
  · simp [hnone]
  · have htrace : (effectOf i s).trace = s.trace := by rw [effectOf_trace, hevents, List.append_nil]
    have hposition := position_of_listening (legal_effectOf i hs) hlistening
    rw [hone]
    refine ⟨le_rfl, fun c' hc' => ?_⟩
    obtain rfl := List.mem_singleton.1 hc'
    exact ⟨hsilent, _, exec_of_legal hs i, htrace, hposition⟩

/-! ### The Command Queue (R203) -/

/-- Settles O52: what a command enqueues goes behind everything queued. -/
theorem commandsAreFramedInQueueOrder : Obligations.CommandsAreFramedInQueueOrder := by
  intro queue ops h
  induction h with
  | done => exact ⟨[], rfl⟩
  | next c queue ops _ _ ih =>
    obtain ⟨later, rfl⟩ := ih
    exact ⟨c.enqueues.map Command.toFrame ++ later, by simp⟩

end Sys2Proof.Machine

/-! The untimed reading: forgetting the count, a tick operation is a `TIMEOUT` or nothing. Settles O40
(43_timer.md R189). -/

namespace Sys2Proof.Machine

/-- Ticks change the count only, or end in the timeout of a running timer. -/
theorem ticks_cases {s : State} (hs : s.Legal) (n : Nat) :
    (∃ cnt, s.ticks n = { s with tmrCnt := cnt }) ∨
      (s.tmrRun = true ∧ s.ticks n = s.stopTimer.returnToListening) := by
  by_cases hrun : s.tmrRun = true
  · obtain ⟨-, -, -, ⟨hrange, -⟩, -⟩ := hs
    obtain ⟨hmin, -⟩ := hrange hrun
    obtain hbefore | hexpired := Nat.lt_or_ge n s.tmrCnt
    · exact .inl ⟨_, ticks_before_expiry hrun n hbefore⟩
    · exact .inr ⟨hrun, ticks_expiry hrun hmin n hexpired⟩
  · exact .inl ⟨s.tmrCnt, ticks_stopped (Bool.eq_false_iff.2 hrun) n⟩

/-! ### Bytes do not read the count -/

theorem forgetCount_rxByte (b : Byte) (s : State) :
    (s.forgetCount.rxByte b).forgetCount = (s.rxByte b).forgetCount := by
  have h : s.forgetCount.acceptByte b = (s.acceptByte b).forgetCount :=
    (acceptByte_withTimer s.tmrRun 0 b s).trans (by simp [State.forgetCount])
  rw [State.rxByte, h]
  simp [State.rxByte, State.forgetCount, State.restartTimer]

theorem forgetCount_rxChunk (bs : List Byte) (s : State) :
    (s.forgetCount.rxChunk bs).forgetCount = (s.rxChunk bs).forgetCount := by
  induction bs generalizing s with
  | nil => rfl
  | cons b bs ih => rw [rxChunk_cons, rxChunk_cons, ← ih, forgetCount_rxByte, ih]

/-! ### Each operation is an untimed input, or a timeout or nothing -/

/-- The two operations that are no inputs of the untimed machine (R189). -/
def IsTick (i : Instr) : Prop := i = .tick ∨ ∃ n, i = .ticks n

theorem untimedStep_op {i : Instr} (hi : ¬ IsTick i) (s : State) :
    untimedStep (.op i) s.forgetCount = some (effectOf i s).forgetCount := by
  cases i with
  | crcCompute | listen | stop => rfl
  | frame payload =>
    refine congrArg some ?_
    change effectOf (.frame payload) s.forgetCount = (effectOf (.frame payload) s).forgetCount
    rw [effectOf_of_not_isReceivePath rfl, effectOf_of_not_isReceivePath rfl]
    rfl
  | rxb b => exact congrArg some (forgetCount_rxByte b s)
  | rxchunk bytes => exact congrArg some (forgetCount_rxChunk bytes s)
  | tick => exact absurd (.inl rfl) hi
  | ticks n => exact absurd (.inr ⟨n, rfl⟩) hi

theorem untimedRun_ticks {s : State} (hs : s.Legal) (n : Nat) :
    ∃ us, untimedRun us s.forgetCount = some (s.ticks n).forgetCount ∧ (us = [] ∨ us = [.timeout]) := by
  obtain ⟨cnt, h⟩ | ⟨hrun, h⟩ := ticks_cases hs n
  · refine ⟨[], ?_, .inl rfl⟩
    rw [h]
    rfl
  · refine ⟨[.timeout], ?_, .inr rfl⟩
    have hoffered : untimedStep .timeout s.forgetCount = some (s.forgetCount.take .timeout) := if_pos hrun
    rw [untimedRun, hoffered, h]
    rfl

theorem untimedRun_of_op {i : Instr} {s : State} (hs : s.Legal) :
    ∃ us, untimedRun us s.forgetCount = some (effectOf i s).forgetCount ∧
      (us = [.op i] ∨ (IsTick i ∧ (us = [] ∨ us = [.timeout]))) := by
  by_cases hi : IsTick i
  · obtain ⟨n, hticks⟩ : ∃ n, effectOf i s = s.ticks n := by
      obtain rfl | ⟨n, rfl⟩ := hi
      · exact ⟨1, congrFun effectOf_tick s⟩
      · exact ⟨n, rfl⟩
    obtain ⟨us, hrun, hus⟩ := untimedRun_ticks hs n
    exact ⟨us, hticks ▸ hrun, .inr ⟨hi, hus⟩⟩
  · exact ⟨[.op i], by rw [untimedRun, untimedStep_op hi]; rfl, .inl rfl⟩

theorem untimedRun_append (us vs : List UntimedInput) (s : State) :
    untimedRun (us ++ vs) s = (untimedRun us s).bind (untimedRun vs) := by
  induction us generalizing s with
  | nil => rfl
  | cons u us ih =>
    rw [List.cons_append, untimedRun, untimedRun, Option.bind_assoc]
    exact congrArg _ (funext ih)

theorem untimedRun_of_ops (ops : List Instr) {s : State} (hs : s.Legal) :
    ∃ us, untimedRun us s.forgetCount = some (effectsOf ops s).forgetCount ∧ us.length ≤ ops.length := by
  induction ops generalizing s with
  | nil => exact ⟨[], rfl, le_rfl⟩
  | cons i ops ih =>
    obtain ⟨us, hfirst, hus⟩ := untimedRun_of_op (i := i) hs
    obtain ⟨vs, hrest, hvs⟩ := ih (legal_effectOf i hs)
    refine ⟨us ++ vs, ?_, ?_⟩
    · rw [untimedRun_append, hfirst, Option.bind_some, hrest, effectsOf_cons]
    · have hone : us.length ≤ 1 := by
        obtain rfl | ⟨-, rfl | rfl⟩ := hus <;> simp
      rw [List.length_append, List.length_cons]
      omega

/-- Settles O40: operation by operation, then along the run. -/
theorem timedRunsAreUntimedRuns : Obligations.TimedRunsAreUntimedRuns := by
  refine ⟨fun i s t hs h => ?_, fun ops s t hs h => ?_⟩
  · obtain rfl := effectOf_of_exec h
    exact untimedRun_of_op hs
  · obtain rfl := Host.Outcome.next.inj ((runOps_of_legal ops hs).symm.trans h)
    exact untimedRun_of_ops ops hs

end Sys2Proof.Machine

/-! Two runs side by side: a timer that runs in `Listening` against a stopped one, and the two values of
`P_STOP_STICKY` under a host that keeps its duties. Each is a relation between states that every operation
keeps. Settles O39 and O50 (43_timer.md R187; 70_reset_and_hazards.md R262, R263). -/

namespace Sys2Proof.Machine

/-! ### The timer in `Listening` (R187) -/

/-- Equal states, or states in `Listening` that differ in their running timers only. -/
def SameButIdleTimer (s s' : State) : Prop :=
  s' = s ∨ (s.rxState = .listening ∧ ∃ run cnt, s' = { s with tmrRun := run, tmrCnt := cnt })

theorem SameButIdleTimer.trace_and_state {s s' : State} (h : SameButIdleTimer s s') :
    s'.trace = s.trace ∧ s' = { s with tmrRun := s'.tmrRun, tmrCnt := s'.tmrCnt } := by
  obtain rfl | ⟨-, run, cnt, rfl⟩ := h <;> exact ⟨rfl, rfl⟩

/-- A byte sets the timer anew, whatever it was. -/
theorem rxByte_withTimer (run : Bool) (cnt : Nat) (b : Byte) {s : State} (hs : s.Legal)
    (hs' : State.Legal { s with tmrRun := run, tmrCnt := cnt }) :
    State.rxByte b { s with tmrRun := run, tmrCnt := cnt } = s.rxByte b := by
  rw [rxByte_of_legal hs, rxByte_of_legal hs', acceptByte_withTimer]

/-- In `Listening` ticks move the timer only: the buffer an expiry would empty is empty. -/
theorem ticks_of_listening {s : State} (hs : s.Legal) (hl : s.rxState = .listening) (n : Nat) :
    ∃ run cnt, s.ticks n = { s with tmrRun := run, tmrCnt := cnt } := by
  obtain ⟨cnt, h⟩ | ⟨-, h⟩ := ticks_cases hs n
  · exact ⟨s.tmrRun, cnt, h⟩
  · refine ⟨false, 0, h.trans ?_⟩
    have hempty : s.rxBuf = [] := hs.1 hl
    simp [State.stopTimer, State.returnToListening, hl, hempty]

theorem SameButIdleTimer.ticks {s s' : State} (h : SameButIdleTimer s s') (hs : s.Legal) (hs' : s'.Legal)
    (n : Nat) : SameButIdleTimer (s.ticks n) (s'.ticks n) := by
  obtain rfl | ⟨hl, run, cnt, rfl⟩ := h
  · exact .inl rfl
  · obtain ⟨run₁, cnt₁, h₁⟩ := ticks_of_listening hs hl n
    obtain ⟨run₂, cnt₂, h₂⟩ := ticks_of_listening hs' hl n
    rw [h₁, h₂]
    exact .inr ⟨hl, run₂, cnt₂, rfl⟩

/-- Every operation keeps the relation: a byte, `LISTEN` and `STOP` make the states equal. -/
theorem SameButIdleTimer.effectOf {s s' : State} (h : SameButIdleTimer s s') (hs : s.Legal)
    (hs' : s'.Legal) (i : Instr) : SameButIdleTimer (effectOf i s) (effectOf i s') := by
  cases i with
  | tick =>
    rw [effectOf_tick]
    exact h.ticks hs hs' 1
  | ticks n => exact h.ticks hs hs' n
  | crcCompute | frame =>
    obtain rfl | ⟨hl, run, cnt, rfl⟩ := h
    · exact .inl rfl
    · rw [effectOf_of_not_isReceivePath rfl, effectOf_of_not_isReceivePath rfl]
      exact .inr ⟨hl, run, cnt, rfl⟩
  | listen | stop =>
    obtain rfl | ⟨-, run, cnt, rfl⟩ := h <;> exact .inl rfl
  | rxb b =>
    obtain rfl | ⟨-, run, cnt, rfl⟩ := h
    · exact .inl rfl
    · exact .inl (rxByte_withTimer run cnt b hs hs')
  | rxchunk bytes =>
    cases bytes with
    | nil => exact h
    | cons b bs =>
      obtain rfl | ⟨-, run, cnt, rfl⟩ := h
      · exact .inl rfl
      · exact .inl (congrArg (State.rxChunk bs) (rxByte_withTimer run cnt b hs hs'))

theorem SameButIdleTimer.effectsOf {s s' : State} (h : SameButIdleTimer s s') (hs : s.Legal)
    (hs' : s'.Legal) (ops : List Instr) : SameButIdleTimer (effectsOf ops s) (effectsOf ops s') := by
  induction ops generalizing s s' with
  | nil => exact h
  | cons i ops ih => exact ih (h.effectOf hs hs' i) (legal_effectOf i hs) (legal_effectOf i hs')

/-- Settles O39: the two states start in the relation and every operation keeps it. -/
theorem expiryInListeningIsInvisible : Obligations.ExpiryInListeningIsInvisible := by
  intro ops s hs hl
  have ⟨hempty, _, _, _, _, hcfg⟩ := hs
  have hs' : State.Legal { s with tmrRun := false, tmrCnt := 0 } := legal_idle hl (hempty hl) rfl rfl hcfg
  have hstart : SameButIdleTimer s { s with tmrRun := false, tmrCnt := 0 } :=
    .inr ⟨hl, false, 0, rfl⟩
  obtain ⟨htrace, hstate⟩ := (hstart.effectsOf hs hs' ops).trace_and_state
  exact ⟨_, _, runOps_of_legal ops hs, runOps_of_legal ops hs', htrace, hstate⟩

/-! ### The open parameter `P_STOP_STICKY` (R262, R263, D7) -/

/-- The state with another value of `P_STOP_STICKY` and another enable bit. -/
def State.withSticky (sticky en : Bool) (s : State) : State :=
  { s with tmrEn := en, cfg := { s.cfg with stopSticky := sticky } }

/-- A byte reads the enable bit and `T_INACT`, not the parameter. -/
theorem rxByte_withSticky (sticky : Bool) (b : Byte) (s : State) :
    (s.withSticky sticky s.tmrEn).rxByte b = (s.rxByte b).withSticky sticky (s.rxByte b).tmrEn := by
  rw [State.rxByte, State.rxByte, acceptByte_eq_withUnread b s]
  exact congrArg State.restartTimer
    (acceptByte_withUnread s.tmrEn s.tmrRun s.tmrCnt { s.cfg with stopSticky := sticky } s.trace b s)

theorem rxChunk_withSticky (sticky : Bool) (bs : List Byte) (s : State) :
    (s.withSticky sticky s.tmrEn).rxChunk bs = (s.rxChunk bs).withSticky sticky (s.rxChunk bs).tmrEn := by
  induction bs generalizing s with
  | nil => rfl
  | cons b bs ih => rw [rxChunk_cons, rxByte_withSticky, ih, rxChunk_cons]

/-- Equal states but for the parameter and the enable bit, and while bytes may come the enable bit too. -/
def SameButSticky (sticky armed : Bool) (s s' : State) : Prop :=
  ∃ en, s' = s.withSticky sticky en ∧ (armed = true → en = s.tmrEn)

theorem SameButSticky.ticks {sticky armed : Bool} {s s' : State} (h : SameButSticky sticky armed s s')
    (n : Nat) : SameButSticky sticky armed (s.ticks n) (s'.ticks n) := by
  obtain ⟨en, rfl, hen⟩ := h
  refine ⟨en, ?_, fun harmed => (hen harmed).trans (ticks_tmrEn n s).symm⟩
  refine (ticks_withUnread en { s.cfg with stopSticky := sticky } s.trace n s).trans ?_
  simp [State.withSticky]

/-- An operation the host may issue keeps the relation: `STOP` alone reads the parameter, and after it no
byte reads the enable bit before a `LISTEN` sets it. -/
theorem SameButSticky.effectOf {sticky armed : Bool} {s s' : State} (h : SameButSticky sticky armed s s')
    {i : Instr} (hduty : (armed || !i.feedsBytes) = true) :
    SameButSticky sticky (i.armsAfter armed) (effectOf i s) (effectOf i s') := by
  cases i with
  | tick =>
    rw [effectOf_tick]
    exact h.ticks 1
  | ticks n => exact h.ticks n
  | crcCompute | frame =>
    obtain ⟨en, rfl, hen⟩ := h
    rw [effectOf_of_not_isReceivePath rfl, effectOf_of_not_isReceivePath rfl]
    exact ⟨en, rfl, hen⟩
  | listen handle =>
    obtain ⟨en, rfl, -⟩ := h
    exact ⟨true, rfl, fun _ => rfl⟩
  | stop =>
    obtain ⟨en, rfl, -⟩ := h
    exact ⟨_, rfl, fun harmed => absurd harmed Bool.false_ne_true⟩
  | rxb b =>
    obtain ⟨en, rfl, hen⟩ := h
    obtain rfl := hen (by simpa [Instr.feedsBytes] using hduty)
    exact ⟨_, rxByte_withSticky sticky b s, fun _ => rfl⟩
  | rxchunk bytes =>
    cases bytes with
    | nil => exact h
    | cons b bs =>
      obtain ⟨en, rfl, hen⟩ := h
      obtain rfl := hen (by simpa [Instr.feedsBytes] using hduty)
      exact ⟨_, rxChunk_withSticky sticky (b :: bs) s, fun _ => rfl⟩

theorem SameButSticky.effectsOf {sticky armed : Bool} {s s' : State}
    (h : SameButSticky sticky armed s s') {ops : List Instr} (hduty : dutiful armed ops = true) :
    ∃ en, effectsOf ops s' = (effectsOf ops s).withSticky sticky en := by
  induction ops generalizing armed s s' with
  | nil =>
    obtain ⟨en, hsame, -⟩ := h
    exact ⟨en, hsame⟩
  | cons i ops ih =>
    obtain ⟨hi, hrest⟩ := Bool.and_eq_true_iff.1 hduty
    exact ih (h.effectOf hi) hrest

/-- Settles O50: the two states start in the relation, armed, and every dutiful operation keeps it. -/
theorem dutifulHostCannotSeeStopSticky : Obligations.DutifulHostCannotSeeStopSticky := by
  intro ops sticky s hs hduty
  have hs' : (s.withSticky sticky s.tmrEn).Legal := hs
  have hstart : SameButSticky sticky true s (s.withSticky sticky s.tmrEn) := ⟨_, rfl, fun _ => rfl⟩
  obtain ⟨en, hsame⟩ := hstart.effectsOf hduty
  exact ⟨_, (effectsOf ops s).withSticky sticky en, runOps_of_legal ops hs,
    (runOps_of_legal ops hs').trans (congrArg Host.Outcome.next hsame), rfl, rfl⟩

end Sys2Proof.Machine
